-- ==== Sys2Proof/Word.lean ====
section
/-! DEFINITION. The machine's value types: the 16-bit word of the registers, the ALU and the data memory, the 8-bit code of a character event, and the text types of a program line. -/

namespace Sys2Proof

/-- A register or memory-cell value, the spec's `u16` (00_scope.md R11, 10_state.md R20). -/
abbrev Word := BitVec 16

/-- An 8-bit code, as `printa` hands it to the output port (10_state.md R33). -/
abbrev Byte := BitVec 8

/-- One program line: its text without a line terminator (30_encoding.md R71). -/
abbrev Line := List Char

/-- One token: a piece of a line between spaces, possibly empty (00_scope.md R14, R18). -/
abbrev Token := List Char

end Sys2Proof
end

