-- ==== Sys2Proof/Machine/Alu.lean ====
section
/-! DEFINITION. The saturating ALU (00_scope.md R13, 41_arithmetic.md R115): exact arithmetic on naturals, narrowed once. -/

namespace Sys2Proof.Machine

/-- The saturation value, 65535 (00_scope.md R10). -/
def satMax : Nat := 65535

/-- A natural narrowed to a word, clamped to 65535. -/
def clamp (n : Nat) : Word := BitVec.ofNat 16 (min n satMax)

/-- `satAdd(a, b) = min(a + b, 65535)`. -/
def satAdd (a b : Word) : Word := clamp (a.toNat + b.toNat)

/-- `satSub(a, b)`: `a - b`, or 65535 (not 0) on underflow. -/
def satSub (a b : Word) : Word := if b.toNat ≤ a.toNat then clamp (a.toNat - b.toNat) else clamp satMax

/-- `satMul(a, b) = min(a * b, 65535)` on the full product (reading RD3, log entry 21). -/
def satMul (a b : Word) : Word := clamp (a.toNat * b.toNat)

/-- `satDiv(a, b)`: the quotient rounded down (decision D17, log entry 21), or 65535 for a divisor of 0. -/
def satDiv (a b : Word) : Word := if b.toNat = 0 then clamp satMax else clamp (a.toNat / b.toNat)

/-- Bits 7 to 0 of a word, as `printa` takes them (45_output.md R164). -/
def lowByte (v : Word) : Byte := BitVec.ofNat 8 (v.toNat % 256)

end Sys2Proof.Machine
end

