-- ==== Sys2Proof/Syntax.lean ====
section
/-! DEFINITION. Registers, operand classes, fault kinds, the stored instruction record, and `Instr`: one constructor per row of spec/opcode_table.json. -/

namespace Sys2Proof

/-- The six register names (10_state.md R20). -/
inductive Reg where
  | r1 | r2 | r3 | r4 | ptr | ret
deriving DecidableEq, Repr

/-- The operand classes (00_scope.md R19). -/
inductive OperandClass where
  /-- A register name. -/
  | R
  /-- A register name or a value literal. -/
  | V
  /-- A jump line. -/
  | L
deriving DecidableEq, Repr

/-- The fault kinds, in the order of their codes 1 to 8 (60_exceptions.md R200). -/
inductive FaultKind where
  | malformedLine
  | unknownMnemonic
  | arityError
  | operandTypeError
  | operandRangeError
  | unknownRegister
  | jumpOutOfRange
  | fetchOutOfRange
deriving DecidableEq, Repr

/-- A record of the instruction memory: the 5-bit tag and two slots, each absent or a text (30_encoding.md R79, 10_state.md R28). -/
structure Record where
  tag : BitVec 5
  s1 : Option Token
  s2 : Option Token
deriving DecidableEq, Repr

/-- An instruction: its operation kind, and its two operand slots kept as text, because operands are checked only when the instruction executes (10_state.md R28, 30_encoding.md R73, R76). -/
inductive Instr where
  | set (s1 s2 : Option Token)
  | add (s1 s2 : Option Token)
  | sub (s1 s2 : Option Token)
  | mul (s1 s2 : Option Token)
  | div (s1 s2 : Option Token)
  | save (s1 s2 : Option Token)
  | load (s1 s2 : Option Token)
  | inc (s1 s2 : Option Token)
  | dec (s1 s2 : Option Token)
  | start (s1 s2 : Option Token)
  | print (s1 s2 : Option Token)
  | printa (s1 s2 : Option Token)
  | jmp (s1 s2 : Option Token)
  | jmpif (s1 s2 : Option Token)
  | smaller (s1 s2 : Option Token)
  | greater (s1 s2 : Option Token)
  | equ (s1 s2 : Option Token)
  | skipins (s1 s2 : Option Token)
  | nop (s1 s2 : Option Token)
deriving DecidableEq, Repr

/-- The text of slot 1, if present. -/
def Instr.slot1 : Instr → Option Token
  | .set a _ | .add a _ | .sub a _ | .mul a _ | .div a _ | .save a _ | .load a _ | .inc a _ | .dec a _
  | .start a _ | .print a _ | .printa a _ | .jmp a _ | .jmpif a _ | .smaller a _ | .greater a _ | .equ a _
  | .skipins a _ | .nop a _ => a

/-- The text of slot 2, if present. -/
def Instr.slot2 : Instr → Option Token
  | .set _ b | .add _ b | .sub _ b | .mul _ b | .div _ b | .save _ b | .load _ b | .inc _ b | .dec _ b
  | .start _ b | .print _ b | .printa _ b | .jmp _ b | .jmpif _ b | .smaller _ b | .greater _ b | .equ _ b
  | .skipins _ b | .nop _ b => b

end Sys2Proof
end

