-- ==== Sys2Proof/WellFormed.lean ====
section
/-! DEFINITION. What the load phase can store (slot texts are non-empty and hold no space; the tag is one of the 19), and the table of operand classes of each operation (30_encoding.md R74). -/

namespace Sys2Proof

/-- The token separator, U+0020 (00_scope.md R14). -/
abbrev spaceChar : Char := ' '

/-- A slot as the decoder fills it: absent, or a non-empty piece of a line cut at every space (30_encoding.md R76). -/
def slotWellFormed : Option Token → Bool
  | none => true
  | some t => !t.isEmpty && !t.contains spaceChar

/-- Both slots of the instruction are ones the decoder can fill. -/
def Instr.wellFormed (i : Instr) : Bool :=
  slotWellFormed i.slot1 && slotWellFormed i.slot2

/-- A record the load phase can write: a tag of the mnemonic table and well-formed slots (30_encoding.md R73, R76, R87). -/
def Record.wellFormed (r : Record) : Bool :=
  decide (r.tag.toNat ≤ 18) && slotWellFormed r.s1 && slotWellFormed r.s2

/-- The operand classes of each operation, slot 1 first (30_encoding.md R74). -/
def Instr.classes : Instr → List OperandClass
  | .set _ _ => [.R, .V]
  | .add _ _ | .sub _ _ | .mul _ _ | .div _ _ => [.V, .V]
  | .save _ _ => [.V]
  | .load _ _ | .inc _ _ | .dec _ _ | .print _ _ | .printa _ _ => [.R]
  | .jmp _ _ | .jmpif _ _ => [.L]
  | .smaller _ _ | .greater _ _ | .equ _ _ => [.V, .V]
  | .start _ _ | .skipins _ _ | .nop _ _ => []

/-- The number of operands of each operation (30_encoding.md R74). -/
def Instr.arity (i : Instr) : Nat := i.classes.length

/-- The slots present are exactly those the operation's arity asks for, by position (30_encoding.md R80). -/
def Instr.arityOk (i : Instr) : Bool :=
  (i.slot1.isSome == decide (1 ≤ i.arity)) && (i.slot2.isSome == decide (2 ≤ i.arity))

end Sys2Proof
end

