-- ==== Sys2Proof/Decode.lean ====
section
/-! DEFINITION. The decoder: a program line to a record (30_encoding.md R72 to R78), a record to an instruction (R73, R87), and the encoder in both forms, written from the same mnemonic table. -/

namespace Sys2Proof

/-! ## Text of a line -/

/-- `split(s, ' ')`: the pieces of `s` between its spaces, in order, empty pieces kept (00_scope.md R14). -/
def splitSpaces : Line → List Token
  | [] => [[]]
  | c :: cs =>
    if c = spaceChar then [] :: splitSpaces cs
    else match splitSpaces cs with
      | [] => [[c]]
      | t :: ts => (c :: t) :: ts

/-- The mnemonic table: each mnemonic with its tag (30_encoding.md R73, decision D2, log entry 22). -/
def mnemonicTable : List (Token × BitVec 5) :=
  [(['s', 'e', 't'], 0), (['a', 'd', 'd'], 1), (['s', 'u', 'b'], 2), (['m', 'u', 'l'], 3), (['d', 'i', 'v'], 4),
   (['s', 'a', 'v', 'e'], 5), (['l', 'o', 'a', 'd'], 6), (['i', 'n', 'c'], 7), (['d', 'e', 'c'], 8)] ++
  [(['s', 't', 'a', 'r', 't'], 9), (['p', 'r', 'i', 'n', 't'], 10), (['p', 'r', 'i', 'n', 't', 'a'], 11),
   (['j', 'm', 'p'], 12), (['j', 'm', 'p', 'i', 'f'], 13)] ++
  [(['s', 'm', 'a', 'l', 'l', 'e', 'r'], 14), (['g', 'r', 'e', 'a', 't', 'e', 'r'], 15), (['e', 'q', 'u'], 16),
   (['s', 'k', 'i', 'p', 'i', 'n', 's'], 17), (['n', 'o', 'p'], 18)]

/-- The tag a first token selects: the empty token selects `nop`, any other must be a mnemonic, exactly (30_encoding.md R73, R75). -/
def tagOfToken (t : Token) : Option (BitVec 5) :=
  if t = [] then some 18 else mnemonicTable.lookup t

/-- A slot's content from the token at its position: absent if there is no such token or it is empty (30_encoding.md R76, decision D5, log entry 14). -/
def slotOfToken : Option Token → Option Token
  | some (c :: cs) => some (c :: cs)
  | _ => none

/-- One line of the load phase: the token count is checked first, then the mnemonic (30_encoding.md R72, R75, R76, R78). -/
def decodeLine (l : Line) : Except FaultKind Record :=
  let toks := splitSpaces l
  if 3 < toks.length then .error .malformedLine
  else match tagOfToken (toks.headD []) with
    | none => .error .unknownMnemonic
    | some tag => .ok { tag := tag, s1 := slotOfToken toks[1]?, s2 := slotOfToken toks[2]? }

/-! ## Records -/

/-- Why a record has no instruction. -/
inductive DecodeError where
  /-- The tag is one of 19 to 31, which name no operation (30_encoding.md R87). -/
  | reservedTag (tag : BitVec 5)
deriving DecidableEq, Repr

/-- The instruction a stored record stands for; total, and refusing the reserved tags by name (30_encoding.md R73, R87). -/
def decodeRecord (r : Record) : Except DecodeError Instr :=
  match r.tag.toNat with
  | 0 => .ok (.set r.s1 r.s2)
  | 1 => .ok (.add r.s1 r.s2)
  | 2 => .ok (.sub r.s1 r.s2)
  | 3 => .ok (.mul r.s1 r.s2)
  | 4 => .ok (.div r.s1 r.s2)
  | 5 => .ok (.save r.s1 r.s2)
  | 6 => .ok (.load r.s1 r.s2)
  | 7 => .ok (.inc r.s1 r.s2)
  | 8 => .ok (.dec r.s1 r.s2)
  | 9 => .ok (.start r.s1 r.s2)
  | 10 => .ok (.print r.s1 r.s2)
  | 11 => .ok (.printa r.s1 r.s2)
  | 12 => .ok (.jmp r.s1 r.s2)
  | 13 => .ok (.jmpif r.s1 r.s2)
  | 14 => .ok (.smaller r.s1 r.s2)
  | 15 => .ok (.greater r.s1 r.s2)
  | 16 => .ok (.equ r.s1 r.s2)
  | 17 => .ok (.skipins r.s1 r.s2)
  | 18 => .ok (.nop r.s1 r.s2)
  | _ => .error (.reservedTag r.tag)

/-! ## Encoder -/

/-- The tag of each operation (30_encoding.md R73). -/
def Instr.tag : Instr → BitVec 5
  | .set _ _ => 0
  | .add _ _ => 1
  | .sub _ _ => 2
  | .mul _ _ => 3
  | .div _ _ => 4
  | .save _ _ => 5
  | .load _ _ => 6
  | .inc _ _ => 7
  | .dec _ _ => 8
  | .start _ _ => 9
  | .print _ _ => 10
  | .printa _ _ => 11
  | .jmp _ _ => 12
  | .jmpif _ _ => 13
  | .smaller _ _ => 14
  | .greater _ _ => 15
  | .equ _ _ => 16
  | .skipins _ _ => 17
  | .nop _ _ => 18

/-- The stored record of an instruction (30_encoding.md R79). -/
def encode (i : Instr) : Record := { tag := i.tag, s1 := i.slot1, s2 := i.slot2 }

/-- The mnemonic of a tag, from the mnemonic table. -/
def mnemonicOfTag (tag : BitVec 5) : Token :=
  match mnemonicTable.find? (fun row => row.2 == tag) with
  | some row => row.1
  | none => []

/-- The text of two slots after a mnemonic; an absent slot 1 before a present slot 2 is an empty token (30_encoding.md R76, R79). -/
def slotText : Option Token → Option Token → Line
  | none, none => []
  | some a, none => spaceChar :: a
  | some a, some b => spaceChar :: a ++ spaceChar :: b
  | none, some b => spaceChar :: spaceChar :: b

/-- The program line of an instruction, in the single format of 30_encoding.md R79. -/
def encodeLine (i : Instr) : Line := mnemonicOfTag i.tag ++ slotText i.slot1 i.slot2

/-! ## The opcode table's words -/

/-- The record whose tag is the low five bits of an `nbits`-bit word and whose slots are absent: the opcode table gives an instruction no bits but the tag's, so its operand slots are the empty ones (30_encoding.md R79, log entry 22). -/
def recordOfWord (nbits w : Nat) : Record :=
  { tag := BitVec.ofNat 5 (w % 2 ^ nbits), s1 := none, s2 := none }

/-- The instruction the decoder reads from a word of the opcode table. -/
def decodeTableWord (nbits w : Nat) : Option Instr :=
  match decodeRecord (recordOfWord nbits w) with
  | .ok i => some i
  | .error _ => none

end Sys2Proof
end

