-- ==== Sys2Proof/Machine/State.lean ====
section
/-! DEFINITION. The machine's state (10_state.md R49), the reasons a step stops, and the state at reset. -/

namespace Sys2Proof.Machine

/-- The register file: six 16-bit registers (10_state.md R20). -/
structure RegFile where
  r1 : Word
  r2 : Word
  r3 : Word
  r4 : Word
  /-- The memory address register (10_state.md R21). -/
  ptr : Word
  /-- The destination of arithmetic results (10_state.md R21). -/
  ret : Word
deriving DecidableEq, Repr

/-- One data memory cell at a word address. The spec's unit of data memory is the 16-bit cell, which has no bytes (20_memory.md R53, R55; DESIGN CHOICE, log entry 1). -/
abbrev MemCell := Nat × Word

/-- The data memory: the cells whose value is not 0, by rising address; an unlisted address holds 0 (20_memory.md R50, log entry 1). -/
abbrev Memory := List MemCell

/-- One output event (10_state.md R33). -/
inductive OutEvent where
  /-- From `print`: a value. -/
  | dec (v : Word)
  /-- From `printa`: an 8-bit character code. -/
  | chr (c : Byte)
deriving DecidableEq, Repr

/-- The controller's run state (10_state.md R36). -/
inductive Status where
  | running
  | done
  | faulted (kind : FaultKind) (line : Nat)
deriving DecidableEq, Repr

/-- What a fetch finds at the program counter (10_state.md R38 to R40). -/
inductive Fetched where
  /-- `pc = N`: the end of the program. -/
  | atEnd
  /-- `pc > N`: beyond the end. -/
  | beyond
  /-- `pc < N`: the record at the program counter. -/
  | record (r : Record)
deriving DecidableEq, Repr

/-- The complete architectural state (10_state.md R49). -/
structure State where
  /-- The register file (R20). -/
  x : RegFile
  /-- The if-flag (R25). -/
  F : Bool
  /-- The program counter, a record index (R29). -/
  pc : Nat
  /-- The data memory (R32). -/
  mem : Memory
  /-- The instruction memory (R27). -/
  IM : List Record
  /-- The output events so far, the earliest first (R33). -/
  out : List OutEvent
  /-- The status register (R36). -/
  status : Status
deriving DecidableEq, Repr

/-- Why the machine has no step. The spec's own fault kinds are `FaultKind`: raising one is a step to a state whose status holds it (60_exceptions.md R205). -/
inductive Fault where
  /-- Raised by `step` alone, when the status is Done: no step is enabled (10_state.md R36). Safe (log entry 7). -/
  | runDone
  /-- Raised by `step` alone, when the status is Faulted: no step is enabled and nothing clears the fault (60_exceptions.md R206). Safe (log entry 7). -/
  | runFaulted (kind : FaultKind) (line : Nat)
deriving DecidableEq, Repr

/-- Why a record has no meaning. -/
inductive Refusal where
  /-- An instruction rejected by name in `exec`; no arm of this model is. Safe. -/
  | notModelled (mnemonic : String)
  /-- Raised by `step` alone, for a record whose tag is 19 to 31: the spec refuses it (30_encoding.md R87), and the decoder never produces one. Safe. -/
  | reservedTag (tag : BitVec 5)
deriving DecidableEq, Repr

/-- The registers at reset (10_state.md R46; all but `ptr` by decision D15, log entry 3). -/
def RegFile.reset : RegFile := { r1 := 0, r2 := 0, r3 := 0, r4 := 0, ptr := 0, ret := 0 }

/-- The state at reset, before the load phase has written the instruction memory (10_state.md R46 to R48, 70_reset_and_hazards.md R231; the flag by decision D15, log entry 4; the empty instruction memory, log entry 5). -/
def State.reset : State :=
  { x := RegFile.reset, F := false, pc := 0, mem := [], IM := [], out := [], status := .running }

end Sys2Proof.Machine
end

