-- ==== Sys2Proof/Machine/Ops.lean ====
section
/-! DEFINITION. The named operations on the state: registers, data memory, output port, program counter, fault entry, fetch, the end of a run, and the load phase. -/

namespace Sys2Proof.Machine

/-! ## Registers (10_state.md R20 to R24, 00_scope.md R12) -/

/-- The value of a register. -/
def RegFile.get (x : RegFile) : Reg → Word
  | .r1 => x.r1
  | .r2 => x.r2
  | .r3 => x.r3
  | .r4 => x.r4
  | .ptr => x.ptr
  | .ret => x.ret

/-- The register file with one register written; none is hard-wired (10_state.md R22). -/
def RegFile.put (x : RegFile) (r : Reg) (v : Word) : RegFile :=
  match r with
  | .r1 => { x with r1 := v }
  | .r2 => { x with r2 := v }
  | .r3 => { x with r3 := v }
  | .r4 => { x with r4 := v }
  | .ptr => { x with ptr := v }
  | .ret => { x with ret := v }

/-- `x[r]`. -/
def State.reg (s : State) (r : Reg) : Word := s.x.get r

/-- `x[r] <- v`. -/
def State.setReg (s : State) (r : Reg) (v : Word) : State := { s with x := s.x.put r v }

/-- The register numbering of 10_state.md R24 (decision D3, log entry 22). -/
def regIndex : Reg → BitVec 3
  | .r1 => 0
  | .r2 => 1
  | .r3 => 2
  | .r4 => 3
  | .ptr => 4
  | .ret => 5

/-- The register of an index; 6 and 7 name none (10_state.md R24). -/
def regOfIndex (n : BitVec 3) : Option Reg :=
  match n.toNat with
  | 0 => some .r1
  | 1 => some .r2
  | 2 => some .r3
  | 3 => some .r4
  | 4 => some .ptr
  | 5 => some .ret
  | _ => none

/-! ## Data memory (20_memory.md R50 to R54) -/

/-- What a cell that is not listed holds: memory is zero-initialised (20_memory.md R50, 10_state.md R48). -/
def Memory.unlisted : Word := 0

/-- The value at an address of a memory list. -/
def Memory.cell : Memory → Nat → Word
  | [], _ => Memory.unlisted
  | (b, v) :: m, a => if a = b then v else Memory.cell m a

/-- A memory list with the value at one address replaced, its entries kept by rising address and free of the unlisted value. -/
def Memory.store : Memory → Nat → Word → Memory
  | [], a, v => if v = Memory.unlisted then [] else [(a, v)]
  | (b, w) :: m, a, v =>
    if a < b then (if v = Memory.unlisted then (b, w) :: m else (a, v) :: (b, w) :: m)
    else if a = b then (if v = Memory.unlisted then m else (a, v) :: m)
    else (b, w) :: Memory.store m a v

/-- Every entry is at or above `lo` and below 65,536, addresses strictly rise, and no entry holds the unlisted value. -/
def Memory.wfFrom : Nat → Memory → Bool
  | _, [] => true
  | lo, (a, v) :: m => decide (lo ≤ a) && decide (a < 65536) && decide (v ≠ Memory.unlisted) && Memory.wfFrom (a + 1) m

/-- The canonical form of a data memory of 65,536 cells (20_memory.md R50, log entry 1). -/
def Memory.wf (m : Memory) : Bool := Memory.wfFrom 0 m

/-- `MemRead(ea, 1)` (20_memory.md R53); every address is valid (R54). -/
def State.memRead (s : State) (ea : Word) : Word := Memory.cell s.mem ea.toNat

/-- `MemWrite(ea, 1, v)` (20_memory.md R53). -/
def State.memWrite (s : State) (ea v : Word) : State := { s with mem := Memory.store s.mem ea.toNat v }

/-- The effective address of every data access: `x[ptr]`, with no displacement (20_memory.md R52). -/
def State.effectiveAddress (s : State) : Word := s.reg .ptr

/-! ## Output port and program counter -/

/-- `emit(e)`: append one event to the output port, which always accepts (45_output.md R160). -/
def State.emit (s : State) (e : OutEvent) : State := { s with out := s.out ++ [e] }

/-- `pc <- target`. -/
def State.goto (s : State) (target : Nat) : State := { s with pc := target }

/-- The default increment (10_state.md R30). -/
def State.advance (s : State) : State := s.goto (s.pc + 1)

/-- The 1-based line number of the instruction at the program counter (00_scope.md R16, 10_state.md R40). -/
def State.line (s : State) : Nat := s.pc + 1

/-! ## Taking a fault (60_exceptions.md R205): there is no return from one (R206) -/

/-- `raise Fault(kind, line)`: the status becomes Faulted(kind, line) and nothing else changes. -/
def State.raise (s : State) (kind : FaultKind) (line : Nat) : State := { s with status := .faulted kind line }

/-- The normal end of a run: the status becomes Done and nothing else changes (10_state.md R38). -/
def State.finish (s : State) : State := { s with status := .done }

/-! ## Fetch (10_state.md R38 to R40) -/

/-- The record at the program counter, or how the counter stands to the end of the program. -/
def fetch (s : State) : Fetched :=
  match s.IM[s.pc]? with
  | some r => .record r
  | none => if s.pc = s.IM.length then .atEnd else .beyond

/-! ## The load phase (30_encoding.md R70, R78) -/

/-- The load phase from line `i` on: each line's record is written in order, and the first line that fails raises its fault with its line number. -/
def loadFrom : Nat → List Line → State → State
  | _, [], s => s
  | i, l :: ls, s =>
    match decodeLine l with
    | .error kind => s.raise kind i
    | .ok r => loadFrom (i + 1) ls { s with IM := s.IM ++ [r] }

/-- The load phase of a program, which fills an empty instruction memory. -/
def loadProgram (lines : List Line) (s : State) : State := loadFrom 1 lines { s with IM := [] }

/-- Reset followed by the load phase: the state in which the run phase of a program begins (70_reset_and_hazards.md R230, log entry 5). -/
def boot (lines : List Line) : State := loadProgram lines State.reset

/-! ## Placing one record, for the host's questions about single instructions (log entry 5) -/

/-- A program with `r` at index `n`; where it was shorter, `nop` records fill the gap. -/
def placeRecord : List Record → Nat → Record → List Record
  | [], 0, r => [r]
  | [], n + 1, r => { tag := 18, s1 := none, s2 := none } :: placeRecord [] n r
  | _ :: rs, 0, r => r :: rs
  | q :: rs, n + 1, r => q :: placeRecord rs n r

end Sys2Proof.Machine
end

