-- ==== Sys2Proof/Machine/Operands.lean ====
section
/-! DEFINITION. Decode-time validation (30_encoding.md R80 to R86): register names, numerals, the three resolvers, and the operand forms of the opcode table, each checking the arity first, then slot 1, then slot 2 (R81; decision D11, log entry 16). -/

namespace Sys2Proof.Machine

/-! ## Tokens -/

/-- The text of a register's name (10_state.md R20). -/
def regName : Reg → Token
  | .r1 => ['r', '1']
  | .r2 => ['r', '2']
  | .r3 => ['r', '3']
  | .r4 => ['r', '4']
  | .ptr => ['p', 't', 'r']
  | .ret => ['r', 'e', 't']

/-- The register a token names, if it is exactly one of the six names (30_encoding.md R82; decision D9, log entry 15). -/
def regOfToken (t : Token) : Option Reg :=
  [Reg.r1, .r2, .r3, .r4, .ptr, .ret].find? (fun r => regName r == t)

/-- The value of an ASCII decimal digit. -/
def digitValue (c : Char) : Option Nat :=
  if 48 ≤ c.toNat ∧ c.toNat ≤ 57 then some (c.toNat - 48) else none

/-- The decimal value of a run of digits after a prefix of value `acc`. -/
def numeralFrom : Nat → Token → Option Nat
  | acc, [] => some acc
  | acc, c :: cs =>
    match digitValue c with
    | some d => numeralFrom (10 * acc + d) cs
    | none => none

/-- The value of a numeral: one or more ASCII decimal digits and nothing else (30_encoding.md R83; decision D8, log entry 15). -/
def numeralValue (t : Token) : Option Nat :=
  if t = [] then none else numeralFrom 0 t

/-! ## Resolvers -/

/-- `resolveReg` (30_encoding.md R82). -/
def resolveReg (t : Token) : Except FaultKind Reg :=
  match regOfToken t with
  | some r => .ok r
  | none => .error .operandTypeError

/-- `resolveVal` (30_encoding.md R84): the register test comes before the numeral test. -/
def resolveVal (s : State) (t : Token) : Except FaultKind Word :=
  match regOfToken t with
  | some r => .ok (s.reg r)
  | none =>
    match numeralValue t with
    | some n => if n ≤ 65535 then .ok (BitVec.ofNat 16 n) else .error .operandRangeError
    | none => .error .operandTypeError

/-- `resolveLine` (30_encoding.md R85): a numeral of any size but 0 (decision D13, log entry 17). -/
def resolveLine (t : Token) : Except FaultKind Nat :=
  match numeralValue t with
  | some n => if n = 0 then .error .jumpOutOfRange else .ok n
  | none => .error .operandTypeError

/-! ## Operand forms (30_encoding.md R74, R80) -/

/-- No operand. -/
def operandsNone : Option Token → Option Token → Except FaultKind Unit
  | none, none => .ok ()
  | _, _ => .error .arityError

/-- One operand of class R. -/
def operandsR : Option Token → Option Token → Except FaultKind Reg
  | some a, none => resolveReg a
  | _, _ => .error .arityError

/-- One operand of class V. -/
def operandsV (s : State) : Option Token → Option Token → Except FaultKind Word
  | some a, none => resolveVal s a
  | _, _ => .error .arityError

/-- One operand of class L. -/
def operandsL : Option Token → Option Token → Except FaultKind Nat
  | some a, none => resolveLine a
  | _, _ => .error .arityError

/-- Two operands, of classes R and V. -/
def operandsRV (s : State) : Option Token → Option Token → Except FaultKind (Reg × Word)
  | some a, some b =>
    match resolveReg a with
    | .error k => .error k
    | .ok r =>
      match resolveVal s b with
      | .error k => .error k
      | .ok v => .ok (r, v)
  | _, _ => .error .arityError

/-- Two operands of class V. -/
def operandsVV (s : State) : Option Token → Option Token → Except FaultKind (Word × Word)
  | some a, some b =>
    match resolveVal s a with
    | .error k => .error k
    | .ok v =>
      match resolveVal s b with
      | .error k => .error k
      | .ok w => .ok (v, w)
  | _, _ => .error .arityError

/-- Validate, then execute (10_state.md R41, R42): a failed validation raises its kind with the instruction's line and changes nothing else; a successful one takes the effect whole. -/
def validated {α : Type} (s : State) (ops : Except FaultKind α) (effect : α → State) :
    Host.Outcome State Fault Refusal :=
  match ops with
  | .ok v => .next (effect v)
  | .error kind => .next (s.raise kind s.line)

end Sys2Proof.Machine
end

