-- ==== Sys2Proof/Machine/Arith.lean ====
section
/-! DEFINITION. Arithmetic (41_arithmetic.md): every result goes to `ret` (R110). -/

namespace Sys2Proof.Machine

/-- The common shape of R111 to R114: two class-V operands, the result to `ret`. -/
def arithmetic (f : Word → Word → Word) (s1 s2 : Option Token) (s : State) : Host.Outcome State Fault Refusal :=
  validated s (operandsVV s s1 s2) fun p => (s.setReg .ret (f p.1 p.2)).advance

/-- `add val val1` (R111). -/
def execAdd (s1 s2 : Option Token) (s : State) : Host.Outcome State Fault Refusal :=
  arithmetic satAdd s1 s2 s

/-- `sub val val1` (R112). -/
def execSub (s1 s2 : Option Token) (s : State) : Host.Outcome State Fault Refusal :=
  arithmetic satSub s1 s2 s

/-- `mul val val1` (R113). -/
def execMul (s1 s2 : Option Token) (s : State) : Host.Outcome State Fault Refusal :=
  arithmetic satMul s1 s2 s

/-- `div val val1` (R114). -/
def execDiv (s1 s2 : Option Token) (s : State) : Host.Outcome State Fault Refusal :=
  arithmetic satDiv s1 s2 s

end Sys2Proof.Machine
end

