-- ==== Sys2Proof/Machine/Assign.lean ====
section
/-! DEFINITION. Assignment (40_assignment.md). -/

namespace Sys2Proof.Machine

/-- `set dst val` (R100). -/
def execSet (s1 s2 : Option Token) (s : State) : Host.Outcome State Fault Refusal :=
  validated s (operandsRV s s1 s2) fun p => (s.setReg p.1 p.2).advance

end Sys2Proof.Machine
end

