-- ==== Sys2Proof/Machine/Flags.lean ====
section
/-! DEFINITION. The if-flag: the comparisons that write it and the two forms that consume it (10_state.md R25). -/

namespace Sys2Proof.Machine

/-- The flag `smaller` computes, on unsigned values (47_compare.md R181). -/
def flagSmaller (a b : Word) : Bool := decide (a.toNat < b.toNat)

/-- The flag `greater` computes (47_compare.md R182). -/
def flagGreater (a b : Word) : Bool := decide (a.toNat > b.toNat)

/-- The flag `equ` computes (47_compare.md R183). -/
def flagEqual (a b : Word) : Bool := decide (a.toNat = b.toNat)

/-- `F <- b`, whatever the flag was (47_compare.md R180). -/
def State.setFlag (s : State) (b : Bool) : State := { s with F := b }

/-- The test of `jmpif` and `skipins`: a true flag is cleared and the counter goes to `target`; a false flag stays false and the counter advances by 1 (46_jumps.md R171, 48_skip_nop.md R190). -/
def State.consumeFlag (s : State) (target : Nat) : State :=
  if s.F then (s.setFlag false).goto target else s.advance

end Sys2Proof.Machine
end

