-- ==== Sys2Proof/Machine/Compare.lean ====
section
/-! DEFINITION. Comparisons (47_compare.md): they write the flag and no register (R180; conflict C1, log entry 20). -/

namespace Sys2Proof.Machine

/-- The common shape of R181 to R183: two class-V operands, the result to the flag. -/
def comparison (f : Word → Word → Bool) (s1 s2 : Option Token) (s : State) : Host.Outcome State Fault Refusal :=
  validated s (operandsVV s s1 s2) fun p => (s.setFlag (f p.1 p.2)).advance

/-- `smaller val val1` (R181). -/
def execSmaller (s1 s2 : Option Token) (s : State) : Host.Outcome State Fault Refusal :=
  comparison flagSmaller s1 s2 s

/-- `greater val val1` (R182). -/
def execGreater (s1 s2 : Option Token) (s : State) : Host.Outcome State Fault Refusal :=
  comparison flagGreater s1 s2 s

/-- `equ val val1` (R183). -/
def execEqu (s1 s2 : Option Token) (s : State) : Host.Outcome State Fault Refusal :=
  comparison flagEqual s1 s2 s

end Sys2Proof.Machine
end

