-- ==== Sys2Proof/Machine/IncDec.lean ====
section
/-! DEFINITION. Increment and decrement (43_incdec.md). -/

namespace Sys2Proof.Machine

/-- `inc reg` (R140). -/
def execInc (s1 s2 : Option Token) (s : State) : Host.Outcome State Fault Refusal :=
  validated s (operandsR s1 s2) fun r => (s.setReg r (satAdd (s.reg r) 1)).advance

/-- `dec reg` (R141). -/
def execDec (s1 s2 : Option Token) (s : State) : Host.Outcome State Fault Refusal :=
  validated s (operandsR s1 s2) fun r => (s.setReg r (satSub (s.reg r) 1)).advance

end Sys2Proof.Machine
end

