-- ==== Sys2Proof/Machine/Jumps.lean ====
section
/-! DEFINITION. Jumps (46_jumps.md): a jump to line n sets the counter to n - 1. -/

namespace Sys2Proof.Machine

/-- `jmp line` (R170). -/
def execJmp (s1 s2 : Option Token) (s : State) : Host.Outcome State Fault Refusal :=
  validated s (operandsL s1 s2) fun n => s.goto (n - 1)

/-- `jmpif line` (R171): the operand is validated whatever the flag holds. -/
def execJmpif (s1 s2 : Option Token) (s : State) : Host.Outcome State Fault Refusal :=
  validated s (operandsL s1 s2) fun n => s.consumeFlag (n - 1)

end Sys2Proof.Machine
end

