-- ==== Sys2Proof/Machine/MemOps.lean ====
section
/-! DEFINITION. Memory store and load (42_memory_ops.md). -/

namespace Sys2Proof.Machine

/-- `save val` (R130). -/
def execSave (s1 s2 : Option Token) (s : State) : Host.Outcome State Fault Refusal :=
  validated s (operandsV s s1 s2) fun v => (s.memWrite s.effectiveAddress v).advance

/-- `load reg` (R131): the address is read before the register is written. -/
def execLoad (s1 s2 : Option Token) (s : State) : Host.Outcome State Fault Refusal :=
  validated s (operandsR s1 s2) fun r => (s.setReg r (s.memRead s.effectiveAddress)).advance

end Sys2Proof.Machine
end

