-- ==== Sys2Proof/Machine/Output.lean ====
section
/-! DEFINITION. Output (45_output.md). -/

namespace Sys2Proof.Machine

/-- `print reg` (R161). -/
def execPrint (s1 s2 : Option Token) (s : State) : Host.Outcome State Fault Refusal :=
  validated s (operandsR s1 s2) fun r => (s.emit (.dec (s.reg r))).advance

/-- `printa reg` (R164). -/
def execPrinta (s1 s2 : Option Token) (s : State) : Host.Outcome State Fault Refusal :=
  validated s (operandsR s1 s2) fun r => (s.emit (.chr (lowByte (s.reg r)))).advance

end Sys2Proof.Machine
end

