-- ==== Sys2Proof/Machine/Restart.lean ====
section
/-! DEFINITION. Restart (44_restart.md). -/

namespace Sys2Proof.Machine

/-- `start` (R150): only the program counter changes; the flag is kept by decision D16 (log entry 19). -/
def execStart (s1 s2 : Option Token) (s : State) : Host.Outcome State Fault Refusal :=
  validated s (operandsNone s1 s2) fun _ => s.goto 0

end Sys2Proof.Machine
end

