-- ==== Sys2Proof/Machine/SkipNop.lean ====
section
/-! DEFINITION. Conditional skip and no-op (48_skip_nop.md). -/

namespace Sys2Proof.Machine

/-- `skipins` (R190). -/
def execSkipins (s1 s2 : Option Token) (s : State) : Host.Outcome State Fault Refusal :=
  validated s (operandsNone s1 s2) fun _ => s.consumeFlag (s.pc + 2)

/-- `nop` (R191). -/
def execNop (s1 s2 : Option Token) (s : State) : Host.Outcome State Fault Refusal :=
  validated s (operandsNone s1 s2) fun _ => s.advance

end Sys2Proof.Machine
end

