-- ==== Sys2Proof/Machine/Dispatch.lean ====
section
/-! DEFINITION. One arm per instruction: the meaning it calls. -/

namespace Sys2Proof.Machine

def exec (i : Instr) (s : State) : Host.Outcome State Fault Refusal :=
  match i with
  | .set s1 s2 => Sys2Proof.Machine.execSet s1 s2 s
  | .add s1 s2 => Sys2Proof.Machine.execAdd s1 s2 s
  | .sub s1 s2 => Sys2Proof.Machine.execSub s1 s2 s
  | .mul s1 s2 => Sys2Proof.Machine.execMul s1 s2 s
  | .div s1 s2 => Sys2Proof.Machine.execDiv s1 s2 s
  | .save s1 s2 => Sys2Proof.Machine.execSave s1 s2 s
  | .load s1 s2 => Sys2Proof.Machine.execLoad s1 s2 s
  | .inc s1 s2 => Sys2Proof.Machine.execInc s1 s2 s
  | .dec s1 s2 => Sys2Proof.Machine.execDec s1 s2 s
  | .start s1 s2 => Sys2Proof.Machine.execStart s1 s2 s
  | .print s1 s2 => Sys2Proof.Machine.execPrint s1 s2 s
  | .printa s1 s2 => Sys2Proof.Machine.execPrinta s1 s2 s
  | .jmp s1 s2 => Sys2Proof.Machine.execJmp s1 s2 s
  | .jmpif s1 s2 => Sys2Proof.Machine.execJmpif s1 s2 s
  | .smaller s1 s2 => Sys2Proof.Machine.execSmaller s1 s2 s
  | .greater s1 s2 => Sys2Proof.Machine.execGreater s1 s2 s
  | .equ s1 s2 => Sys2Proof.Machine.execEqu s1 s2 s
  | .skipins s1 s2 => Sys2Proof.Machine.execSkipins s1 s2 s
  | .nop s1 s2 => Sys2Proof.Machine.execNop s1 s2 s

end Sys2Proof.Machine
end

