-- ==== Sys2Proof/Machine/Step.lean ====
section
/-! DEFINITION. The controller's step (10_state.md R45) and the placing of one instruction for it. -/

namespace Sys2Proof.Machine

/-- One iteration of the controller cycle (10_state.md R37 to R45). In Done and Faulted no step is enabled (R36). -/
def step (s : State) : Host.Outcome State Fault Refusal :=
  match s.status with
  | .done => .fault .runDone
  | .faulted kind line => .fault (.runFaulted kind line)
  | .running =>
    match fetch s with
    | .atEnd => .next s.finish
    | .beyond => .next (s.raise .fetchOutOfRange s.line)
    | .record r =>
      match decodeRecord r with
      | .ok i => exec i s
      | .error (.reservedTag tag) => .refused (.reservedTag tag)

/-- The state with the instruction of an opcode-table word stored where the next fetch reads, and the controller running (log entry 5). -/
def State.withFetchWord (s : State) (nbits w : Nat) : State :=
  { s with IM := placeRecord s.IM s.pc (recordOfWord nbits w), status := .running }

end Sys2Proof.Machine
end

