-- ==== Sys2Proof/Config.lean ====
section
/-! DEFINITION. The OPEN parameters of the spec (00_scope.md R10, 92_eei_decisions.md) and the texts it leaves to "any string" (93_implementation_defined.md I4, I5): opaque constants without a body, so no proof can see their values. None of them is used by a step; all belong to the host interface. -/

namespace Sys2Proof.Config

/-- `split_lines` (D4, log entry 9): how a program's text is cut into lines. -/
opaque splitLines : List Char → List Line

/-- `char_encoding` (D18, log entry 10): the bytes of a `printa` character of code 128 + the argument. -/
opaque charEncoding : Fin 128 → List Byte

/-- `fetch_fault_exit_status` (D20, log entry 11): the host's exit status after a FetchOutOfRange fault. -/
opaque fetchFaultExitStatus : Nat

/-- The host's whole message for a FetchOutOfRange fault at a line: any string (60_exceptions.md R217, log entry 11). DESIGN CHOICE: that it depends on the line alone, and on nothing else of the program or the state, is the model's choice. -/
opaque fetchFaultMessage : Nat → List Byte

/-- The description part of the error message for a fault code and line: any string (60_exceptions.md R216, I4, log entry 11). DESIGN CHOICE: that it depends on the code and the line alone, so that it cannot name the offending token, is the model's choice. -/
opaque errorDescription : Nat → Nat → List Byte

/-- The exit status and message after UnknownRegister, a kind that is never raised and that R216 gives no status (R203, log entry 11). DESIGN CHOICE: that they are the same for every such fault is the model's choice. -/
opaque unknownRegisterExit : Nat × List Byte

/-- The text of the diagnostic dump of the six register values and the flag, at a program counter: any format (60_exceptions.md R218, D25, log entry 12). R218 leaves open whether the text shows `pc` (N27), and so does this constant: the counter is its last argument, which the text may or may not depend on. -/
opaque dumpFormat : List Word → Bool → Nat → List Char

/-- `PROG_MAX` (D24, log entry 13): the largest program length a realisation supports. -/
opaque progMax : Nat

end Sys2Proof.Config
end

