-- ==== Sys2Proof/Machine/HostPort.lean ====
section
/-! DEFINITION. What the host makes of the core (60_exceptions.md R214 to R218, 45_output.md R162, R163): fault codes, the rendering of output events, the final status's message and exit status, the diagnostic dump, and a program given as one text. -/

namespace Sys2Proof.Machine

/-- The numeric fault codes of 60_exceptions.md R200 (decision D19). -/
def faultCode : FaultKind → Nat
  | .malformedLine => 1
  | .unknownMnemonic => 2
  | .arityError => 3
  | .operandTypeError => 4
  | .operandRangeError => 5
  | .unknownRegister => 6
  | .jumpOutOfRange => 7
  | .fetchOutOfRange => 8

/-- The ASCII digit of a value below 10. -/
def digitChar (d : Nat) : Char := Char.ofNat (48 + d)

/-- The decimal digits of `n`, given more fuel than `n` has digits. -/
def decimalFuel : Nat → Nat → List Char
  | 0, _ => []
  | fuel + 1, n => if n < 10 then [digitChar n] else decimalFuel fuel (n / 10) ++ [digitChar (n % 10)]

/-- The decimal digits of `n`: no sign, no leading zeros, no padding (45_output.md R162). -/
def decimal (n : Nat) : List Char := decimalFuel (n + 1) n

/-- The byte of an ASCII character. -/
def charByte (c : Char) : Byte := BitVec.ofNat 8 c.toNat

/-- The newline, U+000A (45_output.md R162; G4, log entry 10). -/
def newline : Byte := 10

/-- The bytes of a character code: itself below 128, and as the OPEN `char_encoding` says from 128 (45_output.md R163, log entry 10). -/
def encodeChr (c : Byte) : List Byte :=
  if h : c.toNat < 128 then [c] else Config.charEncoding ⟨c.toNat - 128, by have := c.isLt; omega⟩

/-- The bytes of one output event (45_output.md R162, R163). -/
def renderEvent : OutEvent → List Byte
  | .dec v => (decimal v.toNat).map charByte ++ [newline]
  | .chr c => encodeChr c ++ [newline]

/-- The fixed text of the error message, `Error on line ` (60_exceptions.md R216). -/
def errorPrefix : List Byte :=
  ['E', 'r', 'r', 'o', 'r', ' ', 'o', 'n', ' ', 'l', 'i', 'n', 'e', ' '].map charByte

/-- The host's message for a fault (60_exceptions.md R216, R217). That its free texts depend on the fault's code and line alone, and not on the program or the state, is the model's choice (log entry 11). -/
def faultMessage (kind : FaultKind) (line : Nat) : List Byte :=
  match kind with
  | .fetchOutOfRange => Config.fetchFaultMessage line
  | .unknownRegister => Config.unknownRegisterExit.2
  | _ => errorPrefix ++ (decimal line).map charByte ++ [':', ' '].map charByte ++ Config.errorDescription (faultCode kind) line

/-- The host's exit status for a final status (60_exceptions.md R216, R217, decision D20, log entry 11). -/
def exitStatus : Status → Option Nat
  | .running => none
  | .done => some 0
  | .faulted .fetchOutOfRange _ => some Config.fetchFaultExitStatus
  | .faulted .unknownRegister _ => some Config.unknownRegisterExit.1
  | .faulted _ _ => some 1

/-- The stream the host writes: every emitted event in order, then the message of a fault (60_exceptions.md R216, decision D21, log entry 23). -/
def consoleStream (s : State) : List Byte :=
  s.out.flatMap renderEvent ++
    match s.status with
    | .faulted kind line => faultMessage kind line
    | _ => []

/-- The content of the diagnostic dump: the six register values in index order, and the flag (60_exceptions.md R218). -/
def dump (s : State) : List Word × Bool :=
  ([Reg.r1, .r2, .r3, .r4, .ptr, .ret].map s.reg, s.F)

/-- The text of the diagnostic dump: any format, and open whether it shows `pc` (60_exceptions.md R218, N27, log entry 12). That it shows nothing of the state but the dump's content and possibly `pc` is the model's choice. -/
def dumpText (s : State) : List Char := Config.dumpFormat (dump s).1 (dump s).2 s.pc

/-- Reset and load phase of a program given as one text, cut into lines as the OPEN `split_lines` says (30_encoding.md R71, log entry 9). -/
def bootText (text : List Char) : State := boot (Config.splitLines text)

end Sys2Proof.Machine
end

