-- ==== Sys2Proof/Safety.lean ====
section
/-! DEFINITION. The terms claims are stated in: the validator and the counter table as the spec gives them whole (30_encoding.md R86, 10_state.md R30), runs and what they save, fault-free runs, and the machine's invariant. -/

namespace Sys2Proof.Machine

/-! ## The validator, driven by the class table (30_encoding.md R86) -/

/-- A resolved operand (00_scope.md R15). -/
inductive Operand where
  | reg (r : Reg)
  | val (v : Word)
  | line (n : Nat)
deriving DecidableEq, Repr

/-- One slot resolved by its class (30_encoding.md R86). -/
def resolveSlot (s : State) (c : OperandClass) (t : Token) : Except FaultKind Operand :=
  match c with
  | .R => (resolveReg t).map .reg
  | .V => (resolveVal s t).map .val
  | .L => (resolveLine t).map .line

/-- The slots resolved in order; the first that fails gives the fault kind (30_encoding.md R81). -/
def resolveSlots (s : State) : List OperandClass → List (Option Token) → Except FaultKind (List Operand)
  | [], _ => .ok []
  | c :: cs, some t :: ts =>
    match resolveSlot s c t with
    | .error k => .error k
    | .ok o =>
      match resolveSlots s cs ts with
      | .error k => .error k
      | .ok os => .ok (o :: os)
  | _, _ => .error .arityError

/-- `validate(rec, line)`: the arity first, then the slots (30_encoding.md R86). -/
def validate (i : Instr) (s : State) : Except FaultKind (List Operand) :=
  if i.arityOk then resolveSlots s i.classes [i.slot1, i.slot2] else .error .arityError

/-- The counter table: the next `pc` of an instruction with validated operands (10_state.md R30). -/
def nextPc (i : Instr) (ops : List Operand) (s : State) : Nat :=
  match i, ops with
  | .start _ _, _ => 0
  | .jmp _ _, [.line n] => n - 1
  | .jmpif _ _, [.line n] => if s.F then n - 1 else s.pc + 1
  | .skipins _ _, _ => if s.F then s.pc + 2 else s.pc + 1
  | _, _ => s.pc + 1

/-! ## Runs -/

/-- The instruction the next step executes, if the controller runs and fetches one. -/
def executes (s : State) : Option Instr :=
  match s.status, fetch s with
  | .running, .record r =>
    match decodeRecord r with
    | .ok i => some i
    | .error _ => none
  | _, _ => none

/-- `t` is reached from `s` by steps of the run phase (10_state.md R37). -/
inductive RunFrom (s : State) : State → Prop
  | start : RunFrom s s
  | snoc {t u : State} : RunFrom s t → step t = .next u → RunFrom s u

/-- What the next step saves: address and value, if it executes a valid `save`. -/
def saveOf (s : State) : List (Word × Word) :=
  match executes s with
  | some (.save a b) =>
    match operandsV s a b with
    | .ok v => [(s.effectiveAddress, v)]
    | .error _ => []
  | _ => []

/-- `t` is reached from `s` by steps that saved what the log lists, the latest save first (20_memory.md R61). -/
inductive RunSaves (s : State) : List (Word × Word) → State → Prop
  | start : RunSaves s [] s
  | snoc {log : List (Word × Word)} {t u : State} :
      RunSaves s log t → step t = .next u → RunSaves s (saveOf t ++ log) u

/-- The comparisons, the only instructions that can make the flag true (10_state.md R25). -/
def Instr.isComparison : Instr → Bool
  | .smaller _ _ | .greater _ _ | .equ _ _ => true
  | _ => false

/-- `t` is reached from `s` by steps none of which executes a comparison. -/
inductive RunWithoutComparison (s : State) : State → Prop
  | start : RunWithoutComparison s s
  | snoc {t u : State} : RunWithoutComparison s t → (∀ i, executes t = some i → Instr.isComparison i = false) →
      step t = .next u → RunWithoutComparison s u

/-! ## Safe runs -/

/-- The status is a fault (10_state.md R36). -/
def State.isFaulted (s : State) : Bool :=
  match s.status with
  | .faulted _ _ => true
  | _ => false

/-- No state the run reaches is faulted. -/
def FaultFree (s : State) : Prop := ∀ t, RunFrom s t → t.isFaulted = false

/-- Nothing about the next step is a fault: the counter is within the program or at its end, and the instruction there, if any, validates. -/
def StepValid (s : State) : Prop :=
  s.pc ≤ s.IM.length ∧ ∀ i, executes s = some i → ∃ ops, validate i s = .ok ops

/-- A program within the length a realisation supports (decision D24, log entry 13). -/
def State.fitsRealisation (s : State) : Prop := s.IM.length ≤ Config.progMax

/-! ## The invariant -/

/-- The fault record agrees with the counter and the program (60_exceptions.md R200): a load fault is on the line after those loaded, a validation fault on the line of the instruction at the counter, a fetch fault on the line of a counter beyond the end, and UnknownRegister is never raised (R203). -/
def faultAgrees (s : State) (kind : FaultKind) (line : Nat) : Prop :=
  match kind with
  | .malformedLine | .unknownMnemonic => s.pc = 0 ∧ line = s.IM.length + 1
  | .arityError | .operandTypeError | .operandRangeError | .jumpOutOfRange => s.pc < s.IM.length ∧ line = s.pc + 1
  | .fetchOutOfRange => s.IM.length < s.pc ∧ line = s.pc + 1
  | .unknownRegister => False

/-- The status agrees with the rest of the state: Done only at the end of the program (10_state.md R38), and a fault record as `faultAgrees` says. -/
def State.statusAgrees (s : State) : Prop :=
  match s.status with
  | .running => True
  | .done => s.pc = s.IM.length
  | .faulted kind line => faultAgrees s kind line

/-- The machine's invariant: the data memory is canonical with every address below 65,536 (20_memory.md R50), the program holds only records the decoder can write (30_encoding.md R76, R87), and the status agrees with the rest. -/
structure State.Inv (s : State) : Prop where
  memory : Memory.wf s.mem = true
  program : ∀ r ∈ s.IM, r.wellFormed = true
  status : s.statusAgrees

end Sys2Proof.Machine
end

