-- ==== Sys2Proof/Certificates/Slice0/Obligations.lean ====
section
/-! DEFINITION. The statements for the provers, and the words they are written in. Operand tokens are described by the words of 30_encoding.md R82 to R85 (`ValueIs`, `BadValue`, …), not by the model's resolvers. -/

namespace Sys2Proof.Claims

open Sys2Proof.Machine

/-! ## Tokens and validation faults -/

/-- The token names no register (30_encoding.md R82). -/
def NotRegister (t : Token) : Prop := ∀ r, t ≠ regName r

/-- A class-V token with its value: a register's current value, or a numeral up to 65535 (30_encoding.md R84). -/
def ValueIs (s : State) (t : Token) (v : Word) : Prop :=
  (∃ r, t = regName r ∧ v = s.x.get r) ∨ (∃ n, numeralValue t = some n ∧ n ≤ 65535 ∧ v.toNat = n)

/-- A class-R token that fails, with its fault kind (30_encoding.md R82; the kind by decision D10, log entry 16). -/
def BadRegister (t : Token) (k : FaultKind) : Prop := NotRegister t ∧ k = .operandTypeError

/-- A class-V token that fails, with its fault kind (30_encoding.md R84; the kind by decision D10, log entry 16). -/
def BadValue (t : Token) (k : FaultKind) : Prop :=
  (NotRegister t ∧ numeralValue t = none ∧ k = .operandTypeError) ∨
    (∃ n, numeralValue t = some n ∧ 65535 < n ∧ k = .operandRangeError)

/-- A class-L token that fails, with its fault kind (30_encoding.md R85; the refusal of 0 by decision D13, log entry 17). -/
def BadLine (t : Token) (k : FaultKind) : Prop :=
  (numeralValue t = none ∧ k = .operandTypeError) ∨ (numeralValue t = some 0 ∧ k = .jumpOutOfRange)

/-- The instruction raises the fault on its own line and changes nothing but the status (10_state.md R41). -/
def Faults (i : Instr) (s : State) (k : FaultKind) : Prop :=
  exec i s = .next { s with status := .faulted k (s.pc + 1) }

/-- The faults of an operation without operands: ArityError if a slot is present (30_encoding.md R80; slots are positional by decision D7, log entry 14). -/
def NoSlotFaults (mk : Option Token → Option Token → Instr) : Prop :=
  ∀ s a b, (a ≠ none ∨ b ≠ none) → Faults (mk a b) s .arityError

/-- The faults of an operation with one operand: ArityError unless slot 1 alone is present (positional by decision D7, log entry 14), then slot 1's own fault (30_encoding.md R80, R81; the order by decision D11, log entry 16). -/
def OneSlotFaults (bad : Token → FaultKind → Prop) (mk : Option Token → Option Token → Instr) : Prop :=
  (∀ s a b, (a = none ∨ b ≠ none) → Faults (mk a b) s .arityError) ∧
    ∀ s a k, bad a k → Faults (mk (some a) none) s k

/-- The faults of an operation with two operands: ArityError unless both slots are present (positional by decision D7, log entry 14), then slot 1's fault, then slot 2's (30_encoding.md R80, R81; the order by decision D11, log entry 16). -/
def TwoSlotFaults (bad1 bad2 : Token → FaultKind → Prop) (mk : Option Token → Option Token → Instr) : Prop :=
  (∀ s a b, (a = none ∨ b = none) → Faults (mk a b) s .arityError) ∧
    (∀ s a b k, bad1 a k → Faults (mk (some a) (some b)) s k) ∧
    ∀ s a b k, (∀ k', ¬ bad1 a k') → bad2 b k → Faults (mk (some a) (some b)) s k

/-! ## The mnemonics -/

/-- The table of 30_encoding.md R73, written out here again: each mnemonic, its tag (decision D2, log entry 22) and the operation it selects. -/
def mnemonicRows : List (Token × BitVec 5 × (Option Token → Option Token → Instr)) :=
  [(['s', 'e', 't'], 0b00000, .set),
   (['a', 'd', 'd'], 0b00001, .add),
   (['s', 'u', 'b'], 0b00010, .sub),
   (['m', 'u', 'l'], 0b00011, .mul),
   (['d', 'i', 'v'], 0b00100, .div)] ++
  [(['s', 'a', 'v', 'e'], 0b00101, .save),
   (['l', 'o', 'a', 'd'], 0b00110, .load),
   (['i', 'n', 'c'], 0b00111, .inc),
   (['d', 'e', 'c'], 0b01000, .dec)] ++
  [(['s', 't', 'a', 'r', 't'], 0b01001, .start),
   (['p', 'r', 'i', 'n', 't'], 0b01010, .print),
   (['p', 'r', 'i', 'n', 't', 'a'], 0b01011, .printa),
   (['j', 'm', 'p'], 0b01100, .jmp),
   (['j', 'm', 'p', 'i', 'f'], 0b01101, .jmpif)] ++
  [(['s', 'm', 'a', 'l', 'l', 'e', 'r'], 0b01110, .smaller),
   (['g', 'r', 'e', 'a', 't', 'e', 'r'], 0b01111, .greater),
   (['e', 'q', 'u'], 0b10000, .equ),
   (['s', 'k', 'i', 'p', 'i', 'n', 's'], 0b10001, .skipins),
   (['n', 'o', 'p'], 0b10010, .nop)]

/-! ## Effects -/

/-- `t` is `s` with register `r` holding `n` and the counter advanced; every other register and all else is as in `s`. -/
def WritesRegister (s t : State) (r : Reg) (n : Nat) : Prop :=
  t = { s with x := t.x, pc := s.pc + 1 } ∧ (t.x.get r).toNat = n ∧ ∀ q, q ≠ r → t.x.get q = s.x.get q

/-- A two-operand arithmetic instruction completes with `result` of its operand values in `ret`. -/
def ArithmeticGives (mk : Option Token → Option Token → Instr) (result : Nat → Nat → Nat) : Prop :=
  ∀ s a b v w, ValueIs s a v → ValueIs s b w →
    ∃ t, exec (mk (some a) (some b)) s = .next t ∧ WritesRegister s t .ret (result v.toNat w.toNat)

/-- A comparison completes with `result` of its operand values in the flag, and nothing else but the counter changed. -/
def ComparisonGives (mk : Option Token → Option Token → Instr) (result : Nat → Nat → Bool) : Prop :=
  ∀ s a b v w, ValueIs s a v → ValueIs s b w →
    exec (mk (some a) (some b)) s = .next { s with F := result v.toNat w.toNat, pc := s.pc + 1 }

/-- The status after an instruction: kept, or the fault of a failed validation, which changes nothing else. -/
def StatusKeptOrFaulted (s t : State) : Prop :=
  t.status = s.status ∨ ∃ k, t = { s with status := .faulted k (s.pc + 1) }

/-- The instructions that write a register, each with the register it writes where its first slot decides that (10_state.md R23). -/
def WritesOnly (i : Instr) (q : Reg) : Prop :=
  match i with
  | .set a _ | .load a _ | .inc a _ | .dec a _ => a = some (regName q)
  | .add _ _ | .sub _ _ | .mul _ _ | .div _ _ => q = .ret
  | _ => False

/-- The instructions of the register-writing shape. -/
def IsRegisterWriter (i : Instr) : Prop :=
  match i with
  | .set _ _ | .add _ _ | .sub _ _ | .mul _ _ | .div _ _ | .load _ _ | .inc _ _ | .dec _ _ => True
  | _ => False

/-- The instructions that only choose the next counter, and at most clear the flag. -/
def IsControl (i : Instr) : Prop :=
  match i with
  | .start _ _ | .jmp _ _ | .jmpif _ _ | .skipins _ _ | .nop _ _ => True
  | _ => False

/-- The two conditional instructions, the only readers of the flag (10_state.md R25). -/
def IsConditional (i : Instr) : Prop :=
  match i with
  | .jmpif _ _ | .skipins _ _ => True
  | _ => False

/-- The two output instructions. -/
def IsOutput (i : Instr) : Prop :=
  match i with
  | .print _ _ | .printa _ _ => True
  | _ => False

end Sys2Proof.Claims

open Sys2Proof Sys2Proof.Machine Sys2Proof.Claims

/-! ## The controller's step -/

/-- 10_state.md R40, R45: a running controller whose counter is at a record with an instruction executes exactly that instruction; the step adds nothing around `exec`. -/
def Obligations.StepRunsDecodedInstruction : Prop :=
  ∀ s r i, s.status = .running → s.IM[s.pc]? = some r → decodeRecord r = .ok i → step s = exec i s

/-- 10_state.md R38; the second clause is its last sentence. -/
def Obligations.StepEndsAtProgramEnd : Prop :=
  (∀ s, s.status = .running → s.pc = s.IM.length → step s = .next { s with status := .done }) ∧
    ∀ s, s.status = .running → s.IM = [] → s.pc = 0 → step s = .next { s with status := .done }

/-- 10_state.md R39. The kind FetchOutOfRange and its line are the spec's own choice (decision D14, log entry 18). -/
def Obligations.StepBeyondEndFaults : Prop :=
  ∀ s, s.status = .running → s.IM.length < s.pc →
    step s = .next { s with status := .faulted .fetchOutOfRange (s.pc + 1) }

/-- 10_state.md R36, 60_exceptions.md R206: Done and Faulted are final. That the model answers its own fault there is log entry 7. -/
def Obligations.FinalStatusHasNoStep : Prop :=
  ∀ s, s.status ≠ .running → ∀ t, step s ≠ .next t

/-- 30_encoding.md R87, last clause on tags: a record with a tag above 18 has no meaning and is refused, whatever its slots. -/
def Obligations.ReservedTagIsRefused : Prop :=
  ∀ s r, s.status = .running → s.IM[s.pc]? = some r → 18 < r.tag.toNat → step s = .refused (.reservedTag r.tag)

/-- 10_state.md R44, 60_exceptions.md R205: a step that ends in a fault writes only the status, and the line recorded is that of the counter. R44 is marked derived, R205 rests on decision D21 (log entry 23), and that FetchOutOfRange records the line pc + 1 is R39, the spec's own choice (decision D14, log entry 18). -/
def Obligations.FaultingStepChangesOnlyStatus : Prop :=
  ∀ s t k l, step s = .next t → t.status = .faulted k l →
    t = { s with status := .faulted k l } ∧ l = s.pc + 1

/-- 20_memory.md R64: no step writes the instruction memory, so every fetch of a run sees what the load phase wrote. -/
def Obligations.ProgramIsNeverWritten : Prop :=
  (∀ s t, step s = .next t → t.IM = s.IM) ∧ ∀ lines t, RunFrom (boot lines) t → t.IM = (boot lines).IM

/-- Every step from every state that meets the invariant leads to a state that meets it (20_memory.md R50, 30_encoding.md R87, 60_exceptions.md R200, R203). -/
def Obligations.StepKeepsInvariant : Prop :=
  ∀ s t, s.Inv → step s = .next t → t.Inv

/-- The reset state meets the invariant. -/
def Obligations.ResetMeetsInvariant : Prop := State.reset.Inv

/-- Every program, well formed or not, leaves the load phase in a state that meets the invariant (30_encoding.md R70). That a failed load keeps the records before the failing line is log entry 6. -/
def Obligations.BootMeetsInvariant : Prop := ∀ lines, (boot lines).Inv

/-- 70_reset_and_hazards.md R237: a running machine never faults exactly when every state its run reaches has its counter in or at the end of the program and a valid instruction there. That a counter beyond the end faults is decision D14 (log entry 18). -/
def Obligations.FaultFreeIffReachedLinesValid : Prop :=
  ∀ s, s.status = .running → (FaultFree s ↔ ∀ t, RunFrom s t → StepValid t)

/-! ## Output, flag and counter over all instructions -/

/-- 10_state.md R33: the output sequence starts empty, only `print` and `printa` append, one event each of its own form, and nothing reads it back. -/
def Obligations.OutputOnlyGrowsAndIsNeverRead : Prop :=
  State.reset.out = [] ∧
    (∀ s t, step s = .next t → t.out = s.out ∨
      (∃ a b v, executes s = some (.print a b) ∧ t.out = s.out ++ [.dec v]) ∨
      (∃ a b c, executes s = some (.printa a b) ∧ t.out = s.out ++ [.chr c])) ∧
    ∀ s t before, step s = .next t →
      step { s with out := before } = .next { t with out := before ++ t.out.drop s.out.length }

/-- 10_state.md R25: the flag's writers and readers. A step changes the flag only by a comparison, or by a conditional that sees true and clears it; a valid comparison writes its result whatever the flag was, a valid conditional that sees true does clear it; every other instruction does the same whatever the flag, and no conditional writes a register. That `start` neither reads nor writes the flag is decision D16 (log entry 19), and that a comparison writes nothing but the flag is conflict C1 (log entry 20). -/
def Obligations.FlagWritersAndReaders : Prop :=
  (∀ s t, step s = .next t → t.F ≠ s.F → ∃ i, executes s = some i ∧
      (Instr.isComparison i = true ∨ (IsConditional i ∧ s.F = true ∧ t.F = false))) ∧
    (ComparisonGives .smaller (fun a b => decide (a < b)) ∧ ComparisonGives .greater (fun a b => decide (b < a)) ∧
      ComparisonGives .equ (fun a b => decide (a = b))) ∧
    (∀ i s ops, IsConditional i → validate i s = .ok ops → s.F = true →
      ∃ t, exec i s = .next t ∧ t.F = false) ∧
    (∀ i s t b, ¬ IsConditional i → exec i s = .next t →
      ∃ u, exec i { s with F := b } = .next u ∧ { u with F := t.F } = t) ∧
    ∀ i s t, IsConditional i → exec i s = .next t → t.x = s.x

/-- 10_state.md R26, 70_reset_and_hazards.md R236: once the flag is false it stays false until a comparison executes, so a true flag is consumed at most once. R26 is marked derived. -/
def Obligations.FlagStaysFalseUntilComparison : Prop :=
  ∀ s t, s.F = false → RunWithoutComparison s t → t.F = false

/-- 10_state.md R30: the next counter of every instruction whose operands validate. -/
def Obligations.CounterFollowsTable : Prop :=
  ∀ i s ops, validate i s = .ok ops → ∃ t, exec i s = .next t ∧ t.pc = nextPc i ops s

/-- 10_state.md R41, R42, 30_encoding.md R86: every instruction is the table-driven validator followed by an effect that cannot fault. The order of checks is decision D11 (log entry 16). -/
def Obligations.ExecMeetsValidator : Prop :=
  (∀ i s k, validate i s = .error k → Faults i s k) ∧
    ∀ i s ops, validate i s = .ok ops → ∃ t, exec i s = .next t ∧ t.status = s.status

/-! ## Tokens -/

/-- 30_encoding.md R82: the six names and no other token. Exact matching is the spec's own choice (decision D9, log entry 15), and so is the kind OperandTypeError (decision D10, log entry 16). -/
def Obligations.RegisterTokens : Prop :=
  (∀ t r, resolveReg t = .ok r ↔
    (t, r) ∈ [(['r', '1'], Reg.r1), (['r', '2'], .r2), (['r', '3'], .r3), (['r', '4'], .r4),
      (['p', 't', 'r'], .ptr), (['r', 'e', 't'], .ret)]) ∧
    ∀ t k, resolveReg t = .error k ↔ NotRegister t ∧ k = .operandTypeError

/-- 30_encoding.md R83: a numeral is one or more ASCII digits and nothing else, and has its decimal value, leading zeros allowed. The grammar is the spec's own choice (decision D8, log entry 15). -/
def Obligations.NumeralTokens : Prop :=
  ∀ t n, numeralValue t = some n ↔
    t ≠ [] ∧ (∀ c ∈ t, '0' ≤ c ∧ c ≤ '9') ∧ n = Nat.ofDigits 10 (t.reverse.map (fun c => c.toNat - 48))

/-- 45_output.md R162, R163: a Dec event is the ASCII codes of its value's decimal digits, without leading zeros, and a line feed; a Chr event is its code below 128, else what the OPEN char_encoding gives, and a line feed. The byte forms are the spec's own choice (decision D18, log entry 10). -/
def Obligations.EventRendering : Prop :=
  (∀ v, renderEvent (.dec v) = (decimal v.toNat).map charByte ++ [10]) ∧
    (∀ n, numeralValue (decimal n) = some n ∧ (n ≠ 0 → (decimal n).head? ≠ some '0')) ∧
    decimal 0 = ['0'] ∧ (∀ n, ∀ c ∈ decimal n, (charByte c).toNat = c.toNat) ∧
    (∀ c : Byte, c.toNat < 128 → renderEvent (.chr c) = [c, 10]) ∧
    ∀ c : Byte, ∀ d : Fin 128, c.toNat = 128 + d.val → renderEvent (.chr c) = Config.charEncoding d ++ [10]

/-! ## The nineteen instructions: effect and faults -/

/-- 40_assignment.md R100. The kinds of a bad operand and the order of the checks are decisions D10 and D11 (log entry 16), and the positional arity decision D7 (log entry 14). -/
def Obligations.SetAssigns : Prop :=
  (∀ s r b v, ValueIs s b v →
    ∃ t, exec (.set (some (regName r)) (some b)) s = .next t ∧ WritesRegister s t r v.toNat) ∧
    TwoSlotFaults BadRegister BadValue .set

/-- 41_arithmetic.md R110, R111. The kinds of a bad operand and the order of the checks are decisions D10 and D11 (log entry 16), and the positional arity decision D7 (log entry 14). -/
def Obligations.AddSaturates : Prop :=
  ArithmeticGives .add (fun a b => min (a + b) 65535) ∧ TwoSlotFaults BadValue BadValue .add

/-- 41_arithmetic.md R110, R112. The kinds of a bad operand and the order of the checks are decisions D10 and D11 (log entry 16), and the positional arity decision D7 (log entry 14). -/
def Obligations.SubGives65535OnUnderflow : Prop :=
  ArithmeticGives .sub (fun a b => if b ≤ a then a - b else 65535) ∧ TwoSlotFaults BadValue BadValue .sub

/-- 41_arithmetic.md R110, R113. That the full product saturates is reading RD3 (log entry 21). The kinds of a bad operand and the order of the checks are decisions D10 and D11 (log entry 16), and the positional arity decision D7 (log entry 14). -/
def Obligations.MulSaturates : Prop :=
  ArithmeticGives .mul (fun a b => min (a * b) 65535) ∧ TwoSlotFaults BadValue BadValue .mul

/-- 41_arithmetic.md R114. The rounding is decision D17 (log entry 21). The kinds of a bad operand and the order of the checks are decisions D10 and D11 (log entry 16), and the positional arity decision D7 (log entry 14). -/
def Obligations.DivRoundsDownAndSaturatesByZero : Prop :=
  ArithmeticGives .div (fun a b => if b = 0 then 65535 else a / b) ∧ TwoSlotFaults BadValue BadValue .div

/-- 42_memory_ops.md R130: the cell addressed by `ptr` alone. The premise is the canonical form of the memory, which every run has (StepKeepsInvariant). The kinds of a bad operand and the order of the checks are decisions D10 and D11 (log entry 16), and the positional arity decision D7 (log entry 14). -/
def Obligations.SaveStoresAtPtr : Prop :=
  (∀ s a v, Memory.wf s.mem = true → ValueIs s a v →
    ∃ t, exec (.save (some a) none) s = .next t ∧ t = { s with mem := t.mem, pc := s.pc + 1 } ∧
      t.memRead s.x.ptr = v ∧ ∀ ea, ea ≠ s.x.ptr → t.memRead ea = s.memRead ea) ∧
    OneSlotFaults BadValue .save

/-- 42_memory_ops.md R131: the address is the old `ptr`, also for `load ptr`. The kinds of a bad operand and the order of the checks are decisions D10 and D11 (log entry 16), and the positional arity decision D7 (log entry 14). -/
def Obligations.LoadReadsAtPtr : Prop :=
  (∀ s r, ∃ t, exec (.load (some (regName r)) none) s = .next t ∧
      WritesRegister s t r (s.memRead s.x.ptr).toNat) ∧
    OneSlotFaults BadRegister .load

/-- 43_incdec.md R140. The kinds of a bad operand and the order of the checks are decisions D10 and D11 (log entry 16), and the positional arity decision D7 (log entry 14). -/
def Obligations.IncSaturates : Prop :=
  (∀ s r, ∃ t, exec (.inc (some (regName r)) none) s = .next t ∧
      WritesRegister s t r (min ((s.x.get r).toNat + 1) 65535)) ∧
    OneSlotFaults BadRegister .inc

/-- 43_incdec.md R141. The kinds of a bad operand and the order of the checks are decisions D10 and D11 (log entry 16), and the positional arity decision D7 (log entry 14). -/
def Obligations.DecGives65535OnUnderflow : Prop :=
  (∀ s r, ∃ t, exec (.dec (some (regName r)) none) s = .next t ∧
      WritesRegister s t r (if 1 ≤ (s.x.get r).toNat then (s.x.get r).toNat - 1 else 65535)) ∧
    OneSlotFaults BadRegister .dec

/-- 44_restart.md R150. That the flag is kept is the spec's own choice (decision D16, log entry 19). The positional arity is decision D7 (log entry 14). -/
def Obligations.StartKeepsAllButCounter : Prop :=
  (∀ s, exec (.start none none) s = .next { s with pc := 0 }) ∧ NoSlotFaults .start

/-- 45_output.md R161. The kinds of a bad operand and the order of the checks are decisions D10 and D11 (log entry 16), and the positional arity decision D7 (log entry 14). -/
def Obligations.PrintEmitsValue : Prop :=
  (∀ s r, exec (.print (some (regName r)) none) s =
      .next { s with out := s.out ++ [.dec (s.x.get r)], pc := s.pc + 1 }) ∧
    OneSlotFaults BadRegister .print

/-- 45_output.md R164. The kinds of a bad operand and the order of the checks are decisions D10 and D11 (log entry 16), and the positional arity decision D7 (log entry 14). -/
def Obligations.PrintaEmitsLowByte : Prop :=
  (∀ s r, ∃ c : Byte, c.toNat = (s.x.get r).toNat % 256 ∧
      exec (.printa (some (regName r)) none) s =
        .next { s with out := s.out ++ [.chr c], pc := s.pc + 1 }) ∧
    OneSlotFaults BadRegister .printa

/-- 46_jumps.md R170, R172. The refusal of line 0 is the spec's own choice (decision D13, log entry 17). The kinds of a bad operand and the order of the checks are decisions D10 and D11 (log entry 16), and the positional arity decision D7 (log entry 14). -/
def Obligations.JmpGoesToLine : Prop :=
  (∀ s a n, numeralValue a = some (n + 1) → exec (.jmp (some a) none) s = .next { s with pc := n }) ∧
    OneSlotFaults BadLine .jmp

/-- 46_jumps.md R171, R172. The refusal of line 0, also when the jump is not taken, is the spec's own choice (decision D13, log entry 17). The kinds of a bad operand and the order of the checks are decisions D10 and D11 (log entry 16), and the positional arity decision D7 (log entry 14). -/
def Obligations.JmpifConsumesFlag : Prop :=
  (∀ s a n, numeralValue a = some (n + 1) → s.F = true →
    exec (.jmpif (some a) none) s = .next { s with F := false, pc := n }) ∧
    (∀ s a n, numeralValue a = some (n + 1) → s.F = false →
      exec (.jmpif (some a) none) s = .next { s with pc := s.pc + 1 }) ∧
    OneSlotFaults BadLine .jmpif

/-- 47_compare.md R180, R181. That `ret` is not written is conflict C1 and reading RD1 (log entry 20). The kinds of a bad operand and the order of the checks are decisions D10 and D11 (log entry 16), and the positional arity decision D7 (log entry 14). -/
def Obligations.SmallerWritesFlag : Prop :=
  ComparisonGives .smaller (fun a b => decide (a < b)) ∧ TwoSlotFaults BadValue BadValue .smaller

/-- 47_compare.md R180, R182. That `ret` is not written is conflict C1 and reading RD1 (log entry 20). The kinds of a bad operand and the order of the checks are decisions D10 and D11 (log entry 16), and the positional arity decision D7 (log entry 14). -/
def Obligations.GreaterWritesFlag : Prop :=
  ComparisonGives .greater (fun a b => decide (b < a)) ∧ TwoSlotFaults BadValue BadValue .greater

/-- 47_compare.md R180, R183. That `ret` is not written is conflict C1 and reading RD1 (log entry 20). The kinds of a bad operand and the order of the checks are decisions D10 and D11 (log entry 16), and the positional arity decision D7 (log entry 14). -/
def Obligations.EquWritesFlag : Prop :=
  ComparisonGives .equ (fun a b => decide (a = b)) ∧ TwoSlotFaults BadValue BadValue .equ

/-- 48_skip_nop.md R190. What a skip past the end leads to is the spec's own choice (decision D14, log entry 18) and is not stated here. The positional arity is decision D7 (log entry 14). -/
def Obligations.SkipinsConsumesFlag : Prop :=
  (∀ s, s.F = true → exec (.skipins none none) s = .next { s with F := false, pc := s.pc + 2 }) ∧
    (∀ s, s.F = false → exec (.skipins none none) s = .next { s with pc := s.pc + 1 }) ∧
    NoSlotFaults .skipins

/-- 48_skip_nop.md R191; the last clause is its encoding: a first token `nop` or empty, in a line of at most three tokens. That a line with an empty first token and more tokens is a `nop` is 30_encoding.md R77, decision D6 (log entry 14). The positional arity is decision D7 (log entry 14). -/
def Obligations.NopOnlyAdvances : Prop :=
  (∀ s, exec (.nop none none) s = .next { s with pc := s.pc + 1 }) ∧ NoSlotFaults .nop ∧
    ∀ l, l.takeWhile (· != ' ') = [] ∨ l.takeWhile (· != ' ') = ['n', 'o', 'p'] → l.count ' ' ≤ 2 →
      ∃ a b, decodeLine l = .ok (encode (.nop a b))

/-! ## Frames -/

/-- 10_state.md R23 and the family rules: what `set`, `add`, `sub`, `mul`, `div`, `load`, `inc` and `dec` leave unchanged: every register but the destination, the flag, every memory cell, the program and the output. -/
def Obligations.FrameOfRegisterWriters : Prop :=
  ∀ i s t, IsRegisterWriter i → exec i s = .next t →
    (∀ q, ¬ WritesOnly i q → t.x.get q = s.x.get q) ∧ t.F = s.F ∧ (∀ ea, t.memRead ea = s.memRead ea) ∧
      t.IM = s.IM ∧ t.out = s.out ∧ StatusKeptOrFaulted s t

/-- 47_compare.md R180: what the comparisons leave unchanged: every register (`ret` included, conflict C1, log entry 20), every memory cell, the program and the output. -/
def Obligations.FrameOfComparisons : Prop :=
  ∀ i s t, Instr.isComparison i = true → exec i s = .next t →
    t.x = s.x ∧ (∀ ea, t.memRead ea = s.memRead ea) ∧ t.IM = s.IM ∧ t.out = s.out ∧ StatusKeptOrFaulted s t

/-- 44_restart.md R150, 46_jumps.md R170, R171, 48_skip_nop.md R190, R191: what `start`, `jmp`, `jmpif`, `skipins` and `nop` leave unchanged: every register, every memory cell, the program and the output, and the flag unless a conditional sees it true. That `start` keeps the flag is decision D16 (log entry 19). -/
def Obligations.FrameOfControl : Prop :=
  ∀ i s t, IsControl i → exec i s = .next t →
    t.x = s.x ∧ (¬ (IsConditional i ∧ s.F = true) → t.F = s.F) ∧ (∀ ea, t.memRead ea = s.memRead ea) ∧
      t.IM = s.IM ∧ t.out = s.out ∧ StatusKeptOrFaulted s t

/-- 45_output.md R161, R164: what `print` and `printa` leave unchanged: every register, the flag, every memory cell and the program; the output keeps what was emitted before. -/
def Obligations.FrameOfOutput : Prop :=
  ∀ i s t, IsOutput i → exec i s = .next t →
    t.x = s.x ∧ t.F = s.F ∧ (∀ ea, t.memRead ea = s.memRead ea) ∧ t.IM = s.IM ∧
      (∃ e, t.out = s.out ++ e) ∧ StatusKeptOrFaulted s t

/-- 42_memory_ops.md R130: what `save` leaves unchanged: every register (`ptr` included), the flag, the program, the output, and every memory cell but the one at the effective address. -/
def Obligations.FrameOfSave : Prop :=
  ∀ a b s t, Memory.wf s.mem = true → exec (.save a b) s = .next t →
    t.x = s.x ∧ t.F = s.F ∧ (∀ ea, ea ≠ s.effectiveAddress → t.memRead ea = s.memRead ea) ∧
      t.IM = s.IM ∧ t.out = s.out ∧ StatusKeptOrFaulted s t

/-- 10_state.md R23, column of registers written, for all nineteen instructions; the rule is marked derived. -/
def Obligations.RegisterWritersTable : Prop :=
  ∀ i s t q, exec i s = .next t → t.x.get q ≠ s.x.get q → WritesOnly i q

/-! ## Memory -/

/-- Equal cells make equal data: the canonical form of the model's memory (log entry 1) is unique. -/
def Obligations.CanonicalMemoryIsUnique : Prop :=
  ∀ m m' : Memory, Memory.wf m = true → Memory.wf m' = true →
    (∀ a : Word, Memory.cell m a.toNat = Memory.cell m' a.toNat) → m = m'

/-- 42_memory_ops.md R130, R131 and the round trip of 95_test_vectors.md L1-5, for every value operand and register. -/
def Obligations.SaveThenLoadRoundTrip : Prop :=
  ∀ s a v r, Memory.wf s.mem = true → ValueIs s a v →
    ∃ t u, exec (.save (some a) none) s = .next t ∧ exec (.load (some (regName r)) none) t = .next u ∧
      u.x.get r = v

/-- 20_memory.md R61: over every run from every state with a canonical memory, a cell holds the value most recently saved to it, or what it held at the start; and in a program's run a load answers the latest save to its address, or 0. -/
def Obligations.LoadSeesLatestSave : Prop :=
  (∀ s log t, Memory.wf s.mem = true → RunSaves s log t →
    ∀ a, t.memRead a = (log.lookup a).getD (s.memRead a)) ∧
    ∀ lines log t r, RunSaves (boot lines) log t →
      ∃ u, exec (.load (some (regName r)) none) t = .next u ∧ u.x.get r = (log.lookup t.x.ptr).getD 0

/-- 20_memory.md R52: `save` and `load` access the cell at `ptr` and no other, and `ptr` changes only when an instruction writes it as a register. -/
def Obligations.PtrIsTheOnlyAddress : Prop :=
  (∀ a b s t ea, Memory.wf s.mem = true → exec (.save a b) s = .next t → t.memRead ea ≠ s.memRead ea →
    ea = s.x.ptr) ∧
    (∀ r s m, Memory.cell m s.x.ptr.toNat = s.memRead s.x.ptr →
      ∃ t u, exec (.load (some (regName r)) none) s = .next t ∧
        exec (.load (some (regName r)) none) { s with mem := m } = .next u ∧ u.x = t.x) ∧
    (∀ i s t ea, exec i s = .next t → t.memRead ea ≠ s.memRead ea → ∃ a b, i = .save a b) ∧
    ∀ i s t, exec i s = .next t → t.x.ptr ≠ s.x.ptr →
      ∃ b, i = .set (some (regName .ptr)) b ∨ i = .load (some (regName .ptr)) b ∨
        i = .inc (some (regName .ptr)) b ∨ i = .dec (some (regName .ptr)) b

/-! ## Reset and the load phase -/

/-- 10_state.md R48, at reset and after the load phase of a program all of whose lines decode. -/
def Obligations.ResetAndLoadedState : Prop :=
  ∀ (lines : List Line) (recs : List Record), lines.map decodeLine = recs.map Except.ok →
    (boot lines).pc = 0 ∧ (∀ a, (boot lines).memRead a = 0) ∧ (boot lines).out = [] ∧
      (boot lines).status = .running ∧ (boot lines).IM = recs ∧
      State.reset.pc = 0 ∧ (∀ a, State.reset.memRead a = 0) ∧ State.reset.out = [] ∧
      State.reset.status = .running

/-- 10_state.md R46, R47: registers and flag at reset. All but `ptr` are the spec's own choice (decision D15, log entries 3 and 4). -/
def Obligations.ResetRegistersAndFlag : Prop :=
  (∀ r, State.reset.x.get r = 0) ∧ State.reset.F = false

/-- 30_encoding.md R70: the first line that fails gives the fault and its line number, no step runs, and registers, flag, counter, memory and output are those of reset. That the first failing line is the one reported is the spec's own choice (decision D12, log entry 16). -/
def Obligations.LoadStopsAtFirstFailingLine : Prop :=
  ∀ (good : List Line) (recs : List Record) bad rest k, good.map decodeLine = recs.map Except.ok → decodeLine bad = .error k →
    (boot (good ++ bad :: rest)).status = .faulted k (good.length + 1) ∧
      (boot (good ++ bad :: rest)).x = State.reset.x ∧ (boot (good ++ bad :: rest)).F = State.reset.F ∧
      (boot (good ++ bad :: rest)).pc = State.reset.pc ∧ (boot (good ++ bad :: rest)).mem = State.reset.mem ∧
      (boot (good ++ bad :: rest)).out = State.reset.out ∧ ∀ t, step (boot (good ++ bad :: rest)) ≠ .next t

/-! ## Decoding -/

/-- 00_scope.md R14: the pieces are what lies between the spaces: joined by spaces they give the line, none holds a space, k spaces give k + 1 pieces, and the empty line gives one empty piece. That the separator is U+0020 is the spec's general knowledge G3 (log entry 8). -/
def Obligations.SplitAtEverySpace : Prop :=
  (∀ l, List.intercalate [' '] (splitSpaces l) = l) ∧ (∀ l, ∀ p ∈ splitSpaces l, ' ' ∉ p) ∧
    (∀ l, (splitSpaces l).length = l.count ' ' + 1) ∧ splitSpaces [] = [[]]

/-- 30_encoding.md R72: a line is malformed exactly when it has three spaces or more. Counting empty tokens is the spec's own choice (decision D5, log entry 14). -/
def Obligations.MalformedIffThreeSpaces : Prop :=
  ∀ l, decodeLine l = .error .malformedLine ↔ 3 ≤ l.count ' '

/-- 30_encoding.md R73, R75: the only other load fault, and exactly when it is raised. The check order is the spec's own choice (decision D12, log entry 16). -/
def Obligations.UnknownMnemonicIff : Prop :=
  (∀ l, decodeLine l = .error .unknownMnemonic ↔ l.count ' ' ≤ 2 ∧ l.takeWhile (· != ' ') ≠ [] ∧
    l.takeWhile (· != ' ') ∉ mnemonicRows.map Prod.fst) ∧
    ∀ l k, decodeLine l = .error k → k = .malformedLine ∨ k = .unknownMnemonic

/-- 30_encoding.md R73, R76, R87, 10_state.md R28: a decoded line is a well-formed record of some instruction, a slot is present exactly when the token at its position is there and not empty and holds that token, a mnemonic of the table selects its tag and operation, and that instruction's own line decodes to the same record. The positional slots are the spec's own choice (decision D5, log entry 14), and so are the tag values (decision D2, log entry 22). -/
def Obligations.DecodedLineIsAnInstruction : Prop :=
  ∀ l r, decodeLine l = .ok r → r.wellFormed = true ∧
    (∀ t, r.s1 = some t ↔ (splitSpaces l)[1]? = some t ∧ t ≠ []) ∧
    (∀ t, r.s2 = some t ↔ (splitSpaces l)[2]? = some t ∧ t ≠ []) ∧
    (∀ row ∈ mnemonicRows, l.takeWhile (· != ' ') = row.1 →
      r.tag = row.2.1 ∧ decodeRecord r = .ok (row.2.2 r.s1 r.s2)) ∧
    ∃ i, decodeRecord r = .ok i ∧ i.wellFormed = true ∧ decodeLine (encodeLine i) = .ok r

/-- Decode and encode agree on the text of every well-formed instruction, whatever its slots hold (30_encoding.md R73, R76, R79; tag values by decision D2, log entry 22). -/
def Obligations.LineEncodingRoundTrip : Prop :=
  ∀ i, i.wellFormed = true → decodeLine (encodeLine i) = .ok (encode i) ∧ decodeRecord (encode i) = .ok i

/-- Each record has at most one instruction and each instruction one record (30_encoding.md R73, R79). -/
def Obligations.RecordEncodingIsExact : Prop :=
  ∀ r i, decodeRecord r = .ok i ↔ encode i = r

/-- Each of the nineteen mnemonics of 30_encoding.md R73 alone on a line, and four lines with operands, among them corner cases of R89, written out (tag values by decision D2, log entry 22; empty tokens by decision D5, log entry 14). -/
def Obligations.WrittenOutLinesDecode : Prop :=
  (∀ row ∈ mnemonicRows, decodeLine row.1 = .ok { tag := row.2.1, s1 := none, s2 := none } ∧
    ∀ a b, decodeRecord { tag := row.2.1, s1 := a, s2 := b } = .ok (row.2.2 a b)) ∧
  decodeLine ['s', 'e', 't', ' ', 'r', '1', ' ', '5'] = .ok { tag := 0b00000, s1 := some ['r', '1'], s2 := some ['5'] } ∧
    decodeLine ['j', 'm', 'p', ' ', '3', ' '] = .ok { tag := 0b01100, s1 := some ['3'], s2 := none } ∧
    decodeLine ['a', 'd', 'd', ' ', ' ', '1'] = .ok { tag := 0b00001, s1 := none, s2 := some ['1'] } ∧
    decodeLine ['A', 'D', 'D', ' ', '1', ' ', '2'] = .error .unknownMnemonic

/-! ## The host's view -/

/-- 60_exceptions.md R216, R217, R218: the exit status of every final status, and the content of the dump. The statuses are decision D20 (log entry 11), and the dump's content decision D25 (log entry 12). -/
def Obligations.HostReadsStatusAndDump : Prop :=
  exitStatus .done = some 0 ∧
    (∀ k l, k ≠ .fetchOutOfRange → k ≠ .unknownRegister → exitStatus (.faulted k l) = some 1) ∧
    (∀ l, exitStatus (.faulted .fetchOutOfRange l) = some Config.fetchFaultExitStatus) ∧
    ∀ s, dump s = ([s.x.r1, s.x.r2, s.x.r3, s.x.r4, s.x.ptr, s.x.ret], s.F)
end

