-- ==== Sys2Proof/Laws/Decode.lean ====
section
/-! SUPPORT. The small laws of the decoder's text operations and of numerals. -/

namespace Sys2Proof

/-- A split has at least one piece. -/
theorem splitSpaces_ne_nil (l : Line) : splitSpaces l ≠ [] := by
  cases l with
  | nil => simp [splitSpaces]
  | cons c cs =>
    unfold splitSpaces
    split_ifs
    · simp
    · split <;> simp

/-- A piece without a space in front of a separator is split off whole. -/
theorem splitSpaces_cut {t : Token} (ht : spaceChar ∉ t) (l : Line) :
    splitSpaces (t ++ spaceChar :: l) = t :: splitSpaces l := by
  induction t with
  | nil => simp [splitSpaces]
  | cons c t ih =>
    simp only [List.mem_cons, not_or] at ht
    rw [List.cons_append, splitSpaces, if_neg (Ne.symm ht.1), ih ht.2]

/-- A text without a space is one piece. -/
theorem splitSpaces_piece {t : Token} (ht : spaceChar ∉ t) : splitSpaces t = [t] := by
  induction t with
  | nil => rfl
  | cons c t ih =>
    simp only [List.mem_cons, not_or] at ht
    rw [splitSpaces, if_neg (Ne.symm ht.1), ih ht.2]

/-- A slot the decoder fills from a token is well formed if the token holds no space. -/
theorem slotOfToken_wellFormed {o : Option Token} (h : ∀ t, o = some t → spaceChar ∉ t) :
    slotWellFormed (slotOfToken o) = true := by
  match o with
  | none => rfl
  | some [] => rfl
  | some (c :: cs) =>
    simpa [slotOfToken, slotWellFormed, spaceChar] using h _ rfl

/-- The mnemonic of every operation's tag selects that tag. -/
theorem tagOfToken_mnemonic (i : Instr) : tagOfToken (mnemonicOfTag i.tag) = some i.tag := by
  cases i <;> (simp only [Instr.tag]; decide)

namespace Machine

/-- A digit's character has the digit's value. -/
theorem digitValue_digitChar {d : Nat} (h : d < 10) : digitValue (digitChar d) = some d := by
  interval_cases d <;> decide

/-- A run of digits is read in two parts. -/
theorem numeralFrom_append (acc : Nat) (t u : Token) :
    numeralFrom acc (t ++ u) = (numeralFrom acc t).bind (fun n => numeralFrom n u) := by
  induction t generalizing acc with
  | nil => rfl
  | cons c t ih =>
    simp only [List.cons_append, numeralFrom]
    cases digitValue c with
    | none => rfl
    | some d => exact ih _

end Machine

end Sys2Proof
end

