-- ==== Sys2Proof/Laws/Memory.lean ====
section
/-! SUPPORT. The laws of the data memory: a store is read back, leaves every other cell alone, and keeps the canonical form. -/

namespace Sys2Proof.Machine

/-- Below the first address of a canonical list every cell is unlisted. -/
theorem Memory.cell_below {m : Memory} {lo a : Nat} (h : Memory.wfFrom lo m = true) (ha : a < lo) :
    Memory.cell m a = Memory.unlisted := by
  induction m generalizing lo with
  | nil => rfl
  | cons e m ih =>
    obtain ⟨b, v⟩ := e
    simp only [Memory.wfFrom, Bool.and_eq_true, decide_eq_true_eq] at h
    obtain ⟨⟨⟨hb, -⟩, -⟩, hm⟩ := h
    rw [Memory.cell, if_neg (by omega), ih hm (by omega)]

/-- A canonical list stays canonical under a lower bound. -/
theorem Memory.wfFrom_mono {m : Memory} {lo lo' : Nat} (h : Memory.wfFrom lo m = true) (hle : lo' ≤ lo) :
    Memory.wfFrom lo' m = true := by
  cases m with
  | nil => rfl
  | cons e m =>
    obtain ⟨b, v⟩ := e
    simp only [Memory.wfFrom, Bool.and_eq_true, decide_eq_true_eq] at h ⊢
    exact ⟨⟨⟨by omega, h.1.1.2⟩, h.1.2⟩, h.2⟩

/-- What a store makes of every cell of a canonical memory (20_memory.md R53). -/
theorem Memory.cell_store {m : Memory} {lo : Nat} (h : Memory.wfFrom lo m = true) (a b : Nat) (v : Word) :
    Memory.cell (Memory.store m a v) b = if b = a then v else Memory.cell m b := by
  induction m generalizing lo with
  | nil =>
    by_cases hv : v = Memory.unlisted <;> by_cases hb : b = a <;> simp [Memory.store, Memory.cell, hv, hb]
  | cons e m ih =>
    obtain ⟨c, w⟩ := e
    simp only [Memory.wfFrom, Bool.and_eq_true, decide_eq_true_eq] at h
    obtain ⟨⟨⟨hc, -⟩, -⟩, hm⟩ := h
    have hlow : ∀ d, d ≤ c → Memory.cell m d = Memory.unlisted := fun d hd =>
      Memory.cell_below hm (by omega)
    rcases Nat.lt_trichotomy a c with h1 | h1 | h1
    · by_cases hv : v = Memory.unlisted <;> by_cases hb : b = a
      · simp [Memory.store, Memory.cell, h1, hv, hb, Nat.ne_of_lt h1, hlow a (by omega)]
      all_goals simp [Memory.store, Memory.cell, h1, hv, hb]
    · subst h1
      by_cases hv : v = Memory.unlisted <;> by_cases hb : b = a <;>
        simp [Memory.store, Memory.cell, hv, hb, hlow a (by omega)]
    · have hn : ¬ a < c := by omega
      have hne : a ≠ c := by omega
      by_cases hb : b = c
      · subst hb
        simp [Memory.store, Memory.cell, hn, hne, hne.symm]
      · simp [Memory.store, Memory.cell, hn, hne, hb, ih hm]

/-- A store to a valid address keeps the canonical form. -/
theorem Memory.store_wfFrom {m : Memory} {lo a : Nat} (h : Memory.wfFrom lo m = true) (hlo : lo ≤ a)
    (ha : a < 65536) (v : Word) : Memory.wfFrom lo (Memory.store m a v) = true := by
  induction m generalizing lo with
  | nil =>
    by_cases hv : v = Memory.unlisted <;> simp [Memory.store, Memory.wfFrom, hv, hlo, ha]
  | cons e m ih =>
    obtain ⟨c, w⟩ := e
    have h0 := h
    simp only [Memory.wfFrom, Bool.and_eq_true, decide_eq_true_eq] at h
    obtain ⟨⟨⟨hc, hc'⟩, hw⟩, hm⟩ := h
    unfold Memory.store
    split_ifs with h1 h2 h3 h4
    · exact h0
    · simp only [Memory.wfFrom, Bool.and_eq_true, decide_eq_true_eq]
      exact ⟨⟨⟨hlo, ha⟩, h2⟩, ⟨⟨by omega, hc'⟩, hw⟩, hm⟩
    · exact Memory.wfFrom_mono hm (by omega)
    · subst h3
      simp only [Memory.wfFrom, Bool.and_eq_true, decide_eq_true_eq]
      exact ⟨⟨⟨hc, hc'⟩, h4⟩, hm⟩
    · simp only [Memory.wfFrom, Bool.and_eq_true, decide_eq_true_eq]
      exact ⟨⟨⟨hc, hc'⟩, hw⟩, ih hm (by omega)⟩

/-- The machine's store keeps the canonical form: every word is a valid address (20_memory.md R54). -/
theorem State.memWrite_wf {s : State} (h : Memory.wf s.mem = true) (ea v : Word) :
    Memory.wf (s.memWrite ea v).mem = true :=
  Memory.store_wfFrom h (Nat.zero_le _) ea.isLt v

/-- What a store makes of every cell, by word address (20_memory.md R53). -/
theorem State.memRead_memWrite {s : State} (h : Memory.wf s.mem = true) (ea v a : Word) :
    (s.memWrite ea v).memRead a = if a = ea then v else s.memRead a := by
  unfold State.memRead State.memWrite
  simp only [Memory.cell_store h, BitVec.toNat_inj]

/-- The memory at reset is canonical. -/
theorem reset_mem_wf : Memory.wf State.reset.mem = true := rfl

end Sys2Proof.Machine
end

