-- ==== Sys2Proof/Laws/Operands.lean ====
section
/-! SUPPORT. What each operand form and `validated` can answer, said once. -/

namespace Sys2Proof.Machine

/-- `validated` answers a next state in two ways only: the effect on the operands, or the fault raised. -/
theorem validated_cases {α : Type} {s t : State} {ops : Except FaultKind α} {effect : α → State}
    (h : validated s ops effect = .next t) :
    (∃ v, ops = .ok v ∧ t = effect v) ∨ (∃ k, ops = .error k ∧ t = s.raise k s.line) := by
  cases ops with
  | ok v => exact .inl ⟨v, rfl, (Host.Outcome.next.inj h).symm⟩
  | error k => exact .inr ⟨k, rfl, (Host.Outcome.next.inj h).symm⟩

/-- `validated` always answers a next state: validation faults are steps, and no effect can stop. -/
theorem validated_next {α : Type} (s : State) (ops : Except FaultKind α) (effect : α → State) :
    ∃ t, validated s ops effect = .next t := by
  cases ops <;> exact ⟨_, rfl⟩

@[simp] theorem validated_ok {α : Type} (s : State) (v : α) (effect : α → State) :
    validated s (.ok v) effect = .next (effect v) := rfl

@[simp] theorem validated_error {α : Type} (s : State) (k : FaultKind) (effect : α → State) :
    validated s (.error k) effect = .next (s.raise k s.line) := rfl

theorem operandsNone_ok {a b : Option Token} {u : Unit} : operandsNone a b = .ok u ↔ a = none ∧ b = none := by
  cases a <;> cases b <;> simp [operandsNone]

theorem operandsR_ok {a b : Option Token} {r : Reg} :
    operandsR a b = .ok r ↔ ∃ t, a = some t ∧ b = none ∧ resolveReg t = .ok r := by
  cases a <;> cases b <;> simp [operandsR]

theorem operandsV_ok {s : State} {a b : Option Token} {v : Word} :
    operandsV s a b = .ok v ↔ ∃ t, a = some t ∧ b = none ∧ resolveVal s t = .ok v := by
  cases a <;> cases b <;> simp [operandsV]

theorem operandsL_ok {a b : Option Token} {n : Nat} :
    operandsL a b = .ok n ↔ ∃ t, a = some t ∧ b = none ∧ resolveLine t = .ok n := by
  cases a <;> cases b <;> simp [operandsL]

theorem operandsRV_ok {s : State} {a b : Option Token} {r : Reg} {v : Word} :
    operandsRV s a b = .ok (r, v) ↔
      ∃ t u, a = some t ∧ b = some u ∧ resolveReg t = .ok r ∧ resolveVal s u = .ok v := by
  cases a <;> cases b <;> simp only [operandsRV] <;> try simp
  rename_i t u
  cases resolveReg t <;> cases resolveVal s u <;> simp

theorem operandsVV_ok {s : State} {a b : Option Token} {v w : Word} :
    operandsVV s a b = .ok (v, w) ↔
      ∃ t u, a = some t ∧ b = some u ∧ resolveVal s t = .ok v ∧ resolveVal s u = .ok w := by
  cases a <;> cases b <;> simp only [operandsVV] <;> try simp
  rename_i t u
  cases resolveVal s t <;> cases resolveVal s u <;> simp

/-- Resolving a class-V token reads the register file and nothing else of the state (00_scope.md R15). -/
theorem resolveVal_congr {s t : State} (h : s.x = t.x) (a : Token) : resolveVal s a = resolveVal t a := by
  simp only [resolveVal, State.reg, h]

theorem operandsV_congr {s t : State} (h : s.x = t.x) (a b : Option Token) : operandsV s a b = operandsV t a b := by
  cases a <;> cases b <;> simp only [operandsV, resolveVal_congr h]

theorem operandsRV_congr {s t : State} (h : s.x = t.x) (a b : Option Token) : operandsRV s a b = operandsRV t a b := by
  cases a <;> cases b <;> simp only [operandsRV, resolveVal_congr h]

theorem operandsVV_congr {s t : State} (h : s.x = t.x) (a b : Option Token) : operandsVV s a b = operandsVV t a b := by
  cases a <;> cases b <;> simp only [operandsVV, resolveVal_congr h]

/-- A register's own name names it. -/
@[simp] theorem regOfToken_regName (r : Reg) : regOfToken (regName r) = some r := by
  cases r <;> decide

/-- A token names a register exactly when it is that register's name. -/
theorem regOfToken_eq_some {t : Token} {r : Reg} : regOfToken t = some r ↔ t = regName r := by
  refine ⟨fun h => ?_, fun h => h ▸ regOfToken_regName r⟩
  exact (beq_iff_eq.mp (List.find?_some (p := fun q => regName q == t) h)).symm

end Sys2Proof.Machine
end

