-- ==== Sys2Proof/Laws/PerInstr.lean ====
section
/-! SUPPORT. The per-instruction family RecordRoundTrip: an instruction's stored record has one of the 19 tags and decodes back to it, slots included. -/

namespace Sys2Proof.Laws.RecordRoundTrip

/-- The record of `i` carries a tag of the mnemonic table (30_encoding.md R73) and is decoded to `i`. -/
def Statement (i : Instr) : Prop :=
  (encode i).tag.toNat ≤ 18 ∧ decodeRecord (encode i) = .ok i

theorem set (s1 s2 : Option Token) : Statement (.set s1 s2) := ⟨by simp [encode, Instr.tag], rfl⟩

theorem add (s1 s2 : Option Token) : Statement (.add s1 s2) := ⟨by simp [encode, Instr.tag], rfl⟩

theorem sub (s1 s2 : Option Token) : Statement (.sub s1 s2) := ⟨by simp [encode, Instr.tag], rfl⟩

theorem mul (s1 s2 : Option Token) : Statement (.mul s1 s2) := ⟨by simp [encode, Instr.tag], rfl⟩

theorem div (s1 s2 : Option Token) : Statement (.div s1 s2) := ⟨by simp [encode, Instr.tag], rfl⟩

theorem save (s1 s2 : Option Token) : Statement (.save s1 s2) := ⟨by simp [encode, Instr.tag], rfl⟩

theorem load (s1 s2 : Option Token) : Statement (.load s1 s2) := ⟨by simp [encode, Instr.tag], rfl⟩

theorem inc (s1 s2 : Option Token) : Statement (.inc s1 s2) := ⟨by simp [encode, Instr.tag], rfl⟩

theorem dec (s1 s2 : Option Token) : Statement (.dec s1 s2) := ⟨by simp [encode, Instr.tag], rfl⟩

theorem start (s1 s2 : Option Token) : Statement (.start s1 s2) := ⟨by simp [encode, Instr.tag], rfl⟩

theorem print (s1 s2 : Option Token) : Statement (.print s1 s2) := ⟨by simp [encode, Instr.tag], rfl⟩

theorem printa (s1 s2 : Option Token) : Statement (.printa s1 s2) := ⟨by simp [encode, Instr.tag], rfl⟩

theorem jmp (s1 s2 : Option Token) : Statement (.jmp s1 s2) := ⟨by simp [encode, Instr.tag], rfl⟩

theorem jmpif (s1 s2 : Option Token) : Statement (.jmpif s1 s2) := ⟨by simp [encode, Instr.tag], rfl⟩

theorem smaller (s1 s2 : Option Token) : Statement (.smaller s1 s2) := ⟨by simp [encode, Instr.tag], rfl⟩

theorem greater (s1 s2 : Option Token) : Statement (.greater s1 s2) := ⟨by simp [encode, Instr.tag], rfl⟩

theorem equ (s1 s2 : Option Token) : Statement (.equ s1 s2) := ⟨by simp [encode, Instr.tag], rfl⟩

theorem skipins (s1 s2 : Option Token) : Statement (.skipins s1 s2) := ⟨by simp [encode, Instr.tag], rfl⟩

theorem nop (s1 s2 : Option Token) : Statement (.nop s1 s2) := ⟨by simp [encode, Instr.tag], rfl⟩

end Sys2Proof.Laws.RecordRoundTrip
end

