-- ==== Sys2Proof/Laws/State.lean ====
section
/-! SUPPORT. One lemma per field per named update of the state, each true by unfolding the update once. -/

namespace Sys2Proof.Machine

@[simp] theorem State.setReg_x (s : State) (r : Reg) (v : Word) : (s.setReg r v).x = s.x.put r v := rfl
@[simp] theorem State.setReg_F (s : State) (r : Reg) (v : Word) : (s.setReg r v).F = s.F := rfl
@[simp] theorem State.setReg_pc (s : State) (r : Reg) (v : Word) : (s.setReg r v).pc = s.pc := rfl
@[simp] theorem State.setReg_mem (s : State) (r : Reg) (v : Word) : (s.setReg r v).mem = s.mem := rfl
@[simp] theorem State.setReg_IM (s : State) (r : Reg) (v : Word) : (s.setReg r v).IM = s.IM := rfl
@[simp] theorem State.setReg_out (s : State) (r : Reg) (v : Word) : (s.setReg r v).out = s.out := rfl
@[simp] theorem State.setReg_status (s : State) (r : Reg) (v : Word) : (s.setReg r v).status = s.status := rfl

@[simp] theorem State.memWrite_x (s : State) (ea v : Word) : (s.memWrite ea v).x = s.x := rfl
@[simp] theorem State.memWrite_F (s : State) (ea v : Word) : (s.memWrite ea v).F = s.F := rfl
@[simp] theorem State.memWrite_pc (s : State) (ea v : Word) : (s.memWrite ea v).pc = s.pc := rfl
@[simp] theorem State.memWrite_mem (s : State) (ea v : Word) : (s.memWrite ea v).mem = Memory.store s.mem ea.toNat v := rfl
@[simp] theorem State.memWrite_IM (s : State) (ea v : Word) : (s.memWrite ea v).IM = s.IM := rfl
@[simp] theorem State.memWrite_out (s : State) (ea v : Word) : (s.memWrite ea v).out = s.out := rfl
@[simp] theorem State.memWrite_status (s : State) (ea v : Word) : (s.memWrite ea v).status = s.status := rfl

@[simp] theorem State.emit_x (s : State) (e : OutEvent) : (s.emit e).x = s.x := rfl
@[simp] theorem State.emit_F (s : State) (e : OutEvent) : (s.emit e).F = s.F := rfl
@[simp] theorem State.emit_pc (s : State) (e : OutEvent) : (s.emit e).pc = s.pc := rfl
@[simp] theorem State.emit_mem (s : State) (e : OutEvent) : (s.emit e).mem = s.mem := rfl
@[simp] theorem State.emit_IM (s : State) (e : OutEvent) : (s.emit e).IM = s.IM := rfl
@[simp] theorem State.emit_out (s : State) (e : OutEvent) : (s.emit e).out = s.out ++ [e] := rfl
@[simp] theorem State.emit_status (s : State) (e : OutEvent) : (s.emit e).status = s.status := rfl

@[simp] theorem State.goto_x (s : State) (n : Nat) : (s.goto n).x = s.x := rfl
@[simp] theorem State.goto_F (s : State) (n : Nat) : (s.goto n).F = s.F := rfl
@[simp] theorem State.goto_pc (s : State) (n : Nat) : (s.goto n).pc = n := rfl
@[simp] theorem State.goto_mem (s : State) (n : Nat) : (s.goto n).mem = s.mem := rfl
@[simp] theorem State.goto_IM (s : State) (n : Nat) : (s.goto n).IM = s.IM := rfl
@[simp] theorem State.goto_out (s : State) (n : Nat) : (s.goto n).out = s.out := rfl
@[simp] theorem State.goto_status (s : State) (n : Nat) : (s.goto n).status = s.status := rfl

@[simp] theorem State.advance_x (s : State) : (s.advance).x = s.x := rfl
@[simp] theorem State.advance_F (s : State) : (s.advance).F = s.F := rfl
@[simp] theorem State.advance_pc (s : State) : (s.advance).pc = s.pc + 1 := rfl
@[simp] theorem State.advance_mem (s : State) : (s.advance).mem = s.mem := rfl
@[simp] theorem State.advance_IM (s : State) : (s.advance).IM = s.IM := rfl
@[simp] theorem State.advance_out (s : State) : (s.advance).out = s.out := rfl
@[simp] theorem State.advance_status (s : State) : (s.advance).status = s.status := rfl

@[simp] theorem State.raise_x (s : State) (k : FaultKind) (l : Nat) : (s.raise k l).x = s.x := rfl
@[simp] theorem State.raise_F (s : State) (k : FaultKind) (l : Nat) : (s.raise k l).F = s.F := rfl
@[simp] theorem State.raise_pc (s : State) (k : FaultKind) (l : Nat) : (s.raise k l).pc = s.pc := rfl
@[simp] theorem State.raise_mem (s : State) (k : FaultKind) (l : Nat) : (s.raise k l).mem = s.mem := rfl
@[simp] theorem State.raise_IM (s : State) (k : FaultKind) (l : Nat) : (s.raise k l).IM = s.IM := rfl
@[simp] theorem State.raise_out (s : State) (k : FaultKind) (l : Nat) : (s.raise k l).out = s.out := rfl
@[simp] theorem State.raise_status (s : State) (k : FaultKind) (l : Nat) : (s.raise k l).status = .faulted k l := rfl

@[simp] theorem State.finish_x (s : State) : (s.finish).x = s.x := rfl
@[simp] theorem State.finish_F (s : State) : (s.finish).F = s.F := rfl
@[simp] theorem State.finish_pc (s : State) : (s.finish).pc = s.pc := rfl
@[simp] theorem State.finish_mem (s : State) : (s.finish).mem = s.mem := rfl
@[simp] theorem State.finish_IM (s : State) : (s.finish).IM = s.IM := rfl
@[simp] theorem State.finish_out (s : State) : (s.finish).out = s.out := rfl
@[simp] theorem State.finish_status (s : State) : (s.finish).status = .done := rfl

@[simp] theorem State.setFlag_x (s : State) (b : Bool) : (s.setFlag b).x = s.x := rfl
@[simp] theorem State.setFlag_F (s : State) (b : Bool) : (s.setFlag b).F = b := rfl
@[simp] theorem State.setFlag_pc (s : State) (b : Bool) : (s.setFlag b).pc = s.pc := rfl
@[simp] theorem State.setFlag_mem (s : State) (b : Bool) : (s.setFlag b).mem = s.mem := rfl
@[simp] theorem State.setFlag_IM (s : State) (b : Bool) : (s.setFlag b).IM = s.IM := rfl
@[simp] theorem State.setFlag_out (s : State) (b : Bool) : (s.setFlag b).out = s.out := rfl
@[simp] theorem State.setFlag_status (s : State) (b : Bool) : (s.setFlag b).status = s.status := rfl

@[simp] theorem State.consumeFlag_x (s : State) (n : Nat) : (s.consumeFlag n).x = s.x := by
  cases h : s.F <;> simp [State.consumeFlag, h]
@[simp] theorem State.consumeFlag_F (s : State) (n : Nat) : (s.consumeFlag n).F = false := by
  cases h : s.F <;> simp [State.consumeFlag, h]
@[simp] theorem State.consumeFlag_pc (s : State) (n : Nat) : (s.consumeFlag n).pc = if s.F then n else s.pc + 1 := by
  cases h : s.F <;> simp [State.consumeFlag, h]
@[simp] theorem State.consumeFlag_mem (s : State) (n : Nat) : (s.consumeFlag n).mem = s.mem := by
  cases h : s.F <;> simp [State.consumeFlag, h]
@[simp] theorem State.consumeFlag_IM (s : State) (n : Nat) : (s.consumeFlag n).IM = s.IM := by
  cases h : s.F <;> simp [State.consumeFlag, h]
@[simp] theorem State.consumeFlag_out (s : State) (n : Nat) : (s.consumeFlag n).out = s.out := by
  cases h : s.F <;> simp [State.consumeFlag, h]
@[simp] theorem State.consumeFlag_status (s : State) (n : Nat) : (s.consumeFlag n).status = s.status := by
  cases h : s.F <;> simp [State.consumeFlag, h]

@[simp] theorem State.reg_eq (s : State) (r : Reg) : s.reg r = s.x.get r := rfl

@[simp] theorem State.effectiveAddress_eq (s : State) : s.effectiveAddress = s.x.ptr := rfl

@[simp] theorem State.line_eq (s : State) : s.line = s.pc + 1 := rfl

/-- A written register holds the written value; every other register holds what it held. -/
theorem RegFile.get_put (x : RegFile) (r q : Reg) (v : Word) :
    (x.put r v).get q = if q = r then v else x.get q := by
  cases r <;> cases q <;> rfl

@[simp] theorem RegFile.get_put_self (x : RegFile) (r : Reg) (v : Word) : (x.put r v).get r = v := by
  simp [RegFile.get_put]

/-- A register file is its six values. -/
theorem RegFile.ext_get {x y : RegFile} (h : ∀ r, x.get r = y.get r) : x = y := by
  cases x
  cases y
  simp only [RegFile.mk.injEq]
  exact ⟨h .r1, h .r2, h .r3, h .r4, h .ptr, h .ret⟩

end Sys2Proof.Machine
end

