-- ==== Sys2Proof/Laws/Step.lean ====
section
/-! SUPPORT. What a fetch, an instruction and a step can do, each said once. -/

namespace Sys2Proof.Machine

/-- A fetch at the end of the program. -/
theorem fetch_atEnd {s : State} (h : s.pc = s.IM.length) : fetch s = .atEnd := by
  simp [fetch, h]

/-- A fetch beyond the end of the program. -/
theorem fetch_beyond {s : State} (h : s.IM.length < s.pc) : fetch s = .beyond := by
  have hn : s.IM[s.pc]? = none := List.getElem?_eq_none (by omega)
  simp only [fetch, hn]
  rw [if_neg (by omega)]

/-- A fetch within the program. -/
theorem fetch_record {s : State} {r : Record} (h : s.IM[s.pc]? = some r) : fetch s = .record r := by
  simp [fetch, h]

/-- An instruction either raises a fault on its own line or completes with the status and the program as they were. -/
theorem exec_cases {i : Instr} {s t : State} (h : exec i s = .next t) :
    (∃ k, t = s.raise k s.line) ∨ (t.status = s.status ∧ t.IM = s.IM) := by
  cases i <;>
    simp only [exec, execSet, execAdd, execSub, execMul, execDiv, execSave, execLoad, execInc, execDec, execStart,
      execPrint, execPrinta, execJmp, execJmpif, execSmaller, execGreater, execEqu, execSkipins, execNop, arithmetic,
      comparison] at h <;>
    rcases validated_cases h with ⟨v, -, rfl⟩ | ⟨k, -, rfl⟩ <;>
    first
      | exact .inl ⟨_, rfl⟩
      | exact .inr ⟨by simp, by simp⟩

/-- A step that answers a next state was taken by a running controller, and either ended the run, faulted at the fetch, or executed the instruction at the counter. -/
theorem step_cases {s t : State} (h : step s = .next t) : s.status = .running ∧
    ((s.pc = s.IM.length ∧ executes s = none ∧ t = s.finish) ∨
      (s.IM.length < s.pc ∧ executes s = none ∧ t = s.raise .fetchOutOfRange s.line) ∨
      ∃ r i, s.IM[s.pc]? = some r ∧ decodeRecord r = .ok i ∧ executes s = some i ∧ exec i s = .next t) := by
  unfold step at h
  cases hs : s.status with
  | done => simp [hs] at h
  | faulted k l => simp [hs] at h
  | running =>
    simp only [hs] at h
    refine ⟨rfl, ?_⟩
    cases hr : s.IM[s.pc]? with
    | none =>
      have hge : s.IM.length ≤ s.pc := List.getElem?_eq_none_iff.mp hr
      rcases Nat.eq_or_lt_of_le hge with he | hlt
      · rw [fetch_atEnd he.symm] at h
        exact .inl ⟨he.symm, by simp [executes, hs, fetch_atEnd he.symm], (Host.Outcome.next.inj h).symm⟩
      · rw [fetch_beyond hlt] at h
        exact .inr (.inl ⟨hlt, by simp [executes, hs, fetch_beyond hlt], (Host.Outcome.next.inj h).symm⟩)
    | some r =>
      rw [fetch_record hr] at h
      cases hd : decodeRecord r with
      | error e =>
        cases e
        simp [hd] at h
      | ok i =>
        simp only [hd] at h
        exact .inr (.inr ⟨r, i, rfl, hd, by simp [executes, hs, fetch_record hr, hd], h⟩)

end Sys2Proof.Machine
end

