-- ==== Sys2Proof/Tests/Slice0.lean ====
section
/-! SUPPORT. The model's own tests. Expected results are from the spec's tables: 30_encoding.md R73 and R89 for decoding, 95_test_vectors.md L1 and L2 for single steps. The last part shows, for every statement with hypotheses, a state and operands that meet them, at the edges of its clauses. -/

namespace Sys2Proof.Tests

open Sys2Proof.Machine Sys2Proof.Claims

/-! ## Helpers -/

/-- The text of a test line. -/
abbrev tx (t : String) : List Char := t.toList

/-- The next state, if the outcome is one. -/
def nextOf (o : Host.Outcome State Fault Refusal) : Option State :=
  match o with
  | .next t => some t
  | _ => none

/-- One step of a one-line program from a given state. -/
def run (text : String) (s : State) : Option State :=
  match decodeLine (tx text) with
  | .ok r => nextOf (step { s with IM := [r] })
  | .error _ => none

/-- The status after that step. -/
def statusOf (text : String) (s : State) : Option Status := (run text s).map (·.status)

/-- The reset state with one register written. -/
def withReg (r : Reg) (v : Word) : State := State.reset.setReg r v

/-- The reset state with the flag true. -/
def flagged : State := State.reset.setFlag true

/-- A memory with one cell: 7 at address 10, which `ptr` addresses (42_memory_ops.md R131). -/
def celled : State := { withReg .ptr 10 with mem := [(10, 7)] }

/-! ## Well-formedness refuses each ill-formed term -/

theorem test_slot_empty_token_refused : (Instr.set (some []) none).wellFormed = false := by decide

theorem test_slot_with_space_refused : (Instr.nop none (some (tx "a b"))).wellFormed = false := by decide

theorem test_wellFormed_accepts : (Instr.set (some (tx "r1,")) (some (tx "-1"))).wellFormed = true := by decide

theorem test_record_reserved_tag_refused :
    Record.wellFormed { tag := 19, s1 := none, s2 := none } = false ∧
      Record.wellFormed { tag := 18, s1 := none, s2 := none } = true := by decide

theorem test_record_bad_slot_refused : Record.wellFormed { tag := 0, s1 := some [], s2 := none } = false ∧
    Record.wellFormed { tag := 0, s1 := none, s2 := some (tx " ") } = false := by decide

theorem test_arity_checked_by_position :
    (Instr.save none (some (tx "1"))).arityOk = false ∧ (Instr.nop (some (tx "x")) none).arityOk = false ∧
      (Instr.add (some (tx "1")) none).arityOk = false ∧ (Instr.jmp (some (tx "1")) none).arityOk = true := by decide

theorem test_memory_form_refused : Memory.wf [(5, 0)] = false ∧ Memory.wf [(5, 1), (5, 2)] = false ∧
    Memory.wf [(65536, 1)] = false ∧ Memory.wf [(5, 1), (65535, 2)] = true := by decide

/-! ## Decoding: each constructor from its tag, written out from 30_encoding.md R73, and from its line -/

theorem test_decode_set : decodeLine (tx "set r1 5") = .ok { tag := 0b00000, s1 := (some (tx "r1")), s2 := (some (tx "5")) } ∧
    decodeRecord { tag := 0b00000, s1 := (some (tx "r1")), s2 := (some (tx "5")) } = .ok (.set (some (tx "r1")) (some (tx "5"))) ∧
    encodeLine (.set (some (tx "r1")) (some (tx "5"))) = tx "set r1 5" := by decide

theorem test_decode_add : decodeLine (tx "add 2 3") = .ok { tag := 0b00001, s1 := (some (tx "2")), s2 := (some (tx "3")) } ∧
    decodeRecord { tag := 0b00001, s1 := (some (tx "2")), s2 := (some (tx "3")) } = .ok (.add (some (tx "2")) (some (tx "3"))) ∧
    encodeLine (.add (some (tx "2")) (some (tx "3"))) = tx "add 2 3" := by decide

theorem test_decode_sub : decodeLine (tx "sub 10 3") = .ok { tag := 0b00010, s1 := (some (tx "10")), s2 := (some (tx "3")) } ∧
    decodeRecord { tag := 0b00010, s1 := (some (tx "10")), s2 := (some (tx "3")) } = .ok (.sub (some (tx "10")) (some (tx "3"))) ∧
    encodeLine (.sub (some (tx "10")) (some (tx "3"))) = tx "sub 10 3" := by decide

theorem test_decode_mul : decodeLine (tx "mul 6 7") = .ok { tag := 0b00011, s1 := (some (tx "6")), s2 := (some (tx "7")) } ∧
    decodeRecord { tag := 0b00011, s1 := (some (tx "6")), s2 := (some (tx "7")) } = .ok (.mul (some (tx "6")) (some (tx "7"))) ∧
    encodeLine (.mul (some (tx "6")) (some (tx "7"))) = tx "mul 6 7" := by decide

theorem test_decode_div : decodeLine (tx "div 100 7") = .ok { tag := 0b00100, s1 := (some (tx "100")), s2 := (some (tx "7")) } ∧
    decodeRecord { tag := 0b00100, s1 := (some (tx "100")), s2 := (some (tx "7")) } = .ok (.div (some (tx "100")) (some (tx "7"))) ∧
    encodeLine (.div (some (tx "100")) (some (tx "7"))) = tx "div 100 7" := by decide

theorem test_decode_save : decodeLine (tx "save 7") = .ok { tag := 0b00101, s1 := (some (tx "7")), s2 := none } ∧
    decodeRecord { tag := 0b00101, s1 := (some (tx "7")), s2 := none } = .ok (.save (some (tx "7")) none) ∧
    encodeLine (.save (some (tx "7")) none) = tx "save 7" := by decide

theorem test_decode_load : decodeLine (tx "load r2") = .ok { tag := 0b00110, s1 := (some (tx "r2")), s2 := none } ∧
    decodeRecord { tag := 0b00110, s1 := (some (tx "r2")), s2 := none } = .ok (.load (some (tx "r2")) none) ∧
    encodeLine (.load (some (tx "r2")) none) = tx "load r2" := by decide

theorem test_decode_inc : decodeLine (tx "inc r3") = .ok { tag := 0b00111, s1 := (some (tx "r3")), s2 := none } ∧
    decodeRecord { tag := 0b00111, s1 := (some (tx "r3")), s2 := none } = .ok (.inc (some (tx "r3")) none) ∧
    encodeLine (.inc (some (tx "r3")) none) = tx "inc r3" := by decide

theorem test_decode_dec : decodeLine (tx "dec ret") = .ok { tag := 0b01000, s1 := (some (tx "ret")), s2 := none } ∧
    decodeRecord { tag := 0b01000, s1 := (some (tx "ret")), s2 := none } = .ok (.dec (some (tx "ret")) none) ∧
    encodeLine (.dec (some (tx "ret")) none) = tx "dec ret" := by decide

theorem test_decode_start : decodeLine (tx "start") = .ok { tag := 0b01001, s1 := none, s2 := none } ∧
    decodeRecord { tag := 0b01001, s1 := none, s2 := none } = .ok (.start none none) ∧
    encodeLine (.start none none) = tx "start" := by decide

theorem test_decode_print : decodeLine (tx "print r1") = .ok { tag := 0b01010, s1 := (some (tx "r1")), s2 := none } ∧
    decodeRecord { tag := 0b01010, s1 := (some (tx "r1")), s2 := none } = .ok (.print (some (tx "r1")) none) ∧
    encodeLine (.print (some (tx "r1")) none) = tx "print r1" := by decide

theorem test_decode_printa : decodeLine (tx "printa r2") = .ok { tag := 0b01011, s1 := (some (tx "r2")), s2 := none } ∧
    decodeRecord { tag := 0b01011, s1 := (some (tx "r2")), s2 := none } = .ok (.printa (some (tx "r2")) none) ∧
    encodeLine (.printa (some (tx "r2")) none) = tx "printa r2" := by decide

theorem test_decode_jmp : decodeLine (tx "jmp 3") = .ok { tag := 0b01100, s1 := (some (tx "3")), s2 := none } ∧
    decodeRecord { tag := 0b01100, s1 := (some (tx "3")), s2 := none } = .ok (.jmp (some (tx "3")) none) ∧
    encodeLine (.jmp (some (tx "3")) none) = tx "jmp 3" := by decide

theorem test_decode_jmpif : decodeLine (tx "jmpif 2") = .ok { tag := 0b01101, s1 := (some (tx "2")), s2 := none } ∧
    decodeRecord { tag := 0b01101, s1 := (some (tx "2")), s2 := none } = .ok (.jmpif (some (tx "2")) none) ∧
    encodeLine (.jmpif (some (tx "2")) none) = tx "jmpif 2" := by decide

theorem test_decode_smaller : decodeLine (tx "smaller 3 5") = .ok { tag := 0b01110, s1 := (some (tx "3")), s2 := (some (tx "5")) } ∧
    decodeRecord { tag := 0b01110, s1 := (some (tx "3")), s2 := (some (tx "5")) } = .ok (.smaller (some (tx "3")) (some (tx "5"))) ∧
    encodeLine (.smaller (some (tx "3")) (some (tx "5"))) = tx "smaller 3 5" := by decide

theorem test_decode_greater : decodeLine (tx "greater r2 0") = .ok { tag := 0b01111, s1 := (some (tx "r2")), s2 := (some (tx "0")) } ∧
    decodeRecord { tag := 0b01111, s1 := (some (tx "r2")), s2 := (some (tx "0")) } = .ok (.greater (some (tx "r2")) (some (tx "0"))) ∧
    encodeLine (.greater (some (tx "r2")) (some (tx "0"))) = tx "greater r2 0" := by decide

theorem test_decode_equ : decodeLine (tx "equ r4 3") = .ok { tag := 0b10000, s1 := (some (tx "r4")), s2 := (some (tx "3")) } ∧
    decodeRecord { tag := 0b10000, s1 := (some (tx "r4")), s2 := (some (tx "3")) } = .ok (.equ (some (tx "r4")) (some (tx "3"))) ∧
    encodeLine (.equ (some (tx "r4")) (some (tx "3"))) = tx "equ r4 3" := by decide

theorem test_decode_skipins : decodeLine (tx "skipins") = .ok { tag := 0b10001, s1 := none, s2 := none } ∧
    decodeRecord { tag := 0b10001, s1 := none, s2 := none } = .ok (.skipins none none) ∧
    encodeLine (.skipins none none) = tx "skipins" := by decide

theorem test_decode_nop : decodeLine (tx "nop") = .ok { tag := 0b10010, s1 := none, s2 := none } ∧
    decodeRecord { tag := 0b10010, s1 := none, s2 := none } = .ok (.nop none none) ∧
    encodeLine (.nop none none) = tx "nop" := by decide

/-- The table's words, as the host asks them: the tag alone, the slots absent; the tags above 18 give nothing. -/
theorem test_table_words : decodeTableWord 8 0 = some (.set none none) ∧
    decodeTableWord 8 11 = some (.printa none none) ∧ decodeTableWord 8 18 = some (.nop none none) ∧
    decodeTableWord 8 19 = none ∧ decodeTableWord 8 31 = none := by decide

/-- A placed word is the first instruction to run after reset: `skipins` advances, `save` without operand is an arity fault. -/
theorem test_placed_word_runs : (nextOf (step (State.reset.withFetchWord 8 17))).map (·.pc) = some 1 ∧
    (nextOf (step (State.reset.withFetchWord 8 5))).map (·.status) = some (.faulted .arityError 1) := by decide

/-! ## The corner cases of 30_encoding.md R89 -/

theorem test_corner_blank_lines : decodeLine (tx "") = .ok (encode (.nop none none)) ∧
    decodeLine (tx "nop ") = .ok (encode (.nop none none)) ∧ decodeLine (tx " ") = .ok (encode (.nop none none)) ∧
    decodeLine (tx "  ") = .ok (encode (.nop none none)) := by decide

theorem test_corner_malformed : decodeLine (tx "   ") = .error .malformedLine ∧
    decodeLine (tx "add 1 2 ") = .error .malformedLine ∧ decodeLine (tx "a b c d") = .error .malformedLine := by decide

theorem test_corner_unknown : decodeLine (tx "ADD 1 2") = .error .unknownMnemonic ∧
    decodeLine (tx "add\t1") = .error .unknownMnemonic := by decide

theorem test_corner_empty_tokens : decodeLine (tx "jmp 3 ") = .ok (encode (.jmp (some (tx "3")) none)) ∧
    decodeLine (tx "add  1") = .ok (encode (.add none (some (tx "1")))) ∧
    decodeLine (tx " add") = .ok (encode (.nop (some (tx "add")) none)) := by decide

theorem test_corner_arity : statusOf "add  1" State.reset = some (.faulted .arityError 1) ∧
    statusOf "print  r1" State.reset = some (.faulted .arityError 1) ∧
    statusOf " add" State.reset = some (.faulted .arityError 1) ∧
    statusOf "print r1 r2" State.reset = some (.faulted .arityError 1) ∧
    statusOf "set r1" State.reset = some (.faulted .arityError 1) := by decide

theorem test_corner_operand_type : statusOf "set R1 5" State.reset = some (.faulted .operandTypeError 1) ∧
    statusOf "set 5 r1" State.reset = some (.faulted .operandTypeError 1) ∧
    statusOf "set r1, 5" State.reset = some (.faulted .operandTypeError 1) ∧
    statusOf "set r1 -1" State.reset = some (.faulted .operandTypeError 1) ∧
    statusOf "set r1 +1" State.reset = some (.faulted .operandTypeError 1) ∧
    statusOf "set r1 abc" State.reset = some (.faulted .operandTypeError 1) := by decide

theorem test_corner_order_and_jumps : statusOf "set r1 65536" State.reset = some (.faulted .operandRangeError 1) ∧
    statusOf "set 99999 abc" State.reset = some (.faulted .operandTypeError 1) ∧
    statusOf "jmp r1" State.reset = some (.faulted .operandTypeError 1) ∧
    statusOf "jmp 0" State.reset = some (.faulted .jumpOutOfRange 1) ∧
    statusOf "jmp 70000" State.reset = some .running ∧
    statusOf "print 5" State.reset = some (.faulted .operandTypeError 1) := by decide

/-! ## Single steps, from 95_test_vectors.md -/

/-- L2-B. -/
theorem test_set_leading_zeros : (run "set r1 007" State.reset).map (·.x.r1) = some 7 ∧
    (run "set ptr 65535" State.reset).map (·.x.ptr) = some 65535 := by decide

/-- L2-B. -/
theorem test_set_copies : (run "set r2 r1" (withReg .r1 7)).map (fun t => (t.x.r2, t.x.r1, t.pc)) = some (7, 7, 1) := by decide

/-- L2-A. -/
theorem test_add_saturates : (run "add 65535 1" State.reset).map (·.x.ret) = some 65535 ∧
    (run "add 32768 2" State.reset).map (·.x.ret) = some 32770 := by decide

/-- L2-A. -/
theorem test_add_reads_old_ret : (run "add ret ret" (withReg .ret 10)).map (·.x.ret) = some 20 := by decide

/-- L2-A. -/
theorem test_sub_underflow : (run "sub 3 5" State.reset).map (·.x.ret) = some 65535 ∧
    (run "sub 65535 2" State.reset).map (·.x.ret) = some 65533 := by decide

/-- L2-A. -/
theorem test_sub_same_register : (run "sub r1 r1" (withReg .r1 9)).map (fun t => (t.x.r1, t.x.ret)) = some (9, 0) := by decide

/-- L2-A. -/
theorem test_mul_saturates : (run "mul 256 256" State.reset).map (·.x.ret) = some 65535 ∧
    (run "mul 255 257" State.reset).map (·.x.ret) = some 65535 := by decide

/-- L2-A. -/
theorem test_mul_exact : (run "mul 100 7" State.reset).map (·.x.ret) = some 700 := by decide

/-- L2-A. -/
theorem test_div_rounds_down : (run "div 100 7" State.reset).map (·.x.ret) = some 14 ∧
    (run "div 65535 2" State.reset).map (·.x.ret) = some 32767 := by decide

/-- L2-A. -/
theorem test_div_by_zero : (run "div 0 0" State.reset).map (·.x.ret) = some 65535 ∧
    statusOf "div 7 0" State.reset = some .running := by decide

/-- L2-C. -/
theorem test_save_stores : (run "save 42" State.reset).map (·.mem) = some [(0, 42)] ∧
    (run "save ptr" (withReg .ptr 300)).map (·.mem) = some [(300, 300)] := by decide

/-- R130. -/
theorem test_save_zero_clears : (run "save 0" celled).map (·.mem) = some [] := by decide

/-- R131, L2-C. -/
theorem test_load_reads : (run "load r2" celled).map (·.x.r2) = some 7 ∧
    (run "load r1" (withReg .ptr 9)).map (·.x.r1) = some 0 := by decide

/-- L2-C. -/
theorem test_load_ptr_uses_old_address : (run "load ptr" celled).map (·.x.ptr) = some 7 := by decide

/-- L1-6, L2-D. -/
theorem test_inc_saturates : (run "inc ret" (withReg .ret 65535)).map (·.x.ret) = some 65535 ∧
    (run "inc r1" (withReg .r1 65534)).map (·.x.r1) = some 65535 := by decide

/-- L1-6, L2-D. -/
theorem test_dec_underflow : (run "dec ret" State.reset).map (·.x.ret) = some 65535 ∧
    (run "dec r1" (withReg .r1 65535)).map (·.x.r1) = some 65534 := by decide

/-- R150, L2-E. -/
theorem test_start_keeps_flag : nextOf (exec (.start none none) { flagged with pc := 4 }) = some flagged := by decide

/-- L2-E. -/
theorem test_start_operand_faults : statusOf "start 1" State.reset = some (.faulted .arityError 1) := by decide

/-- L2-F. -/
theorem test_print_emits : (run "print r1" (withReg .r1 65535)).map (·.out) = some [.dec 65535] := by decide

/-- L2-F. -/
theorem test_printa_low_bits : (run "printa r1" (withReg .r1 321)).map (·.out) = some [.chr 65] ∧
    (run "printa r1" (withReg .r1 256)).map (·.out) = some [.chr 0] := by decide

/-- L2-G. -/
theorem test_jmp_sets_counter : (run "jmp 2" State.reset).map (·.pc) = some 1 ∧
    (run "jmp 99999999999" State.reset).map (·.pc) = some 99999999998 := by decide

/-- R171. -/
theorem test_jmpif_taken_and_not : (run "jmpif 1" State.reset).map (fun t => (t.pc, t.F)) = some (1, false) ∧
    (run "jmpif 1" flagged).map (fun t => (t.pc, t.F)) = some (0, false) := by decide

/-- L2-G. -/
theorem test_jmpif_zero_faults_untaken : statusOf "jmpif 0" State.reset = some (.faulted .jumpOutOfRange 1) := by decide

/-- L2-H. -/
theorem test_smaller_unsigned : (run "smaller 0 65535" State.reset).map (·.F) = some true ∧
    (run "smaller 4 4" flagged).map (·.F) = some false := by decide

/-- L2-H. -/
theorem test_smaller_keeps_ret : (run "smaller 1 2" (withReg .ret 9)).map (·.x.ret) = some 9 := by decide

/-- L2-H. -/
theorem test_greater_unsigned : (run "greater 65535 65534" State.reset).map (·.F) = some true ∧
    (run "greater 0 0" flagged).map (·.F) = some false := by decide

/-- R183, L2-I. -/
theorem test_equ_compares : (run "equ 007 7" State.reset).map (·.F) = some true ∧
    (run "equ 1 2" flagged).map (·.F) = some false := by decide

/-- R190. -/
theorem test_skipins_skips_and_clears : (run "skipins" flagged).map (fun t => (t.pc, t.F)) = some (2, false) ∧
    (run "skipins" State.reset).map (·.pc) = some 1 := by decide

/-- R191, L2-I. -/
theorem test_nop_advances : (run "nop" flagged).map (fun t => (t.pc, t.F)) = some (1, true) ∧
    statusOf "nop x" State.reset = some (.faulted .arityError 1) := by decide

/-- L2-J. -/
theorem test_end_of_program : nextOf (step State.reset) = some (State.reset.finish) := by decide

/-- L2-K. -/
theorem test_fetch_beyond_end : (nextOf (step { State.reset with pc := 4 })).map (·.status) = some (.faulted .fetchOutOfRange 5) := by decide

/-- L2-J. -/
theorem test_load_first_failing_line : (boot [tx "set r1 5", tx "bogus", tx "a b c d"]).status = .faulted .unknownMnemonic 2 ∧
    (boot [tx "print r1", tx "x y z w"]).status = .faulted .malformedLine 2 := by decide

/-- 60_exceptions.md R200. -/
theorem test_fault_codes : [FaultKind.malformedLine, .unknownMnemonic, .arityError, .operandTypeError, .operandRangeError, .unknownRegister, .jumpOutOfRange, .fetchOutOfRange].map faultCode = [1, 2, 3, 4, 5, 6, 7, 8] := by decide

/-- 45_output.md R162. -/
theorem test_render : renderEvent (.dec 65535) = [54, 53, 53, 51, 53, 10] ∧
    renderEvent (.dec 0) = [48, 10] := by decide

/-- 10_state.md R24. -/
theorem test_register_indexes : [Reg.r1, .r2, .r3, .r4, .ptr, .ret].map (fun r => regOfIndex (regIndex r)) = [some .r1, some .r2, some .r3, some .r4, some .ptr, some .ret] ∧
    regOfIndex 6 = none ∧ regOfIndex 7 = none ∧ regIndex .ptr = 4 := by decide

/-! ## Witnesses: hypotheses that can be met, at the edges of their clauses -/

/-- A token is a value in its state: the largest literal, and a register. -/
theorem witness_value_literal : ValueIs State.reset (tx "65535") 65535 :=
  .inr ⟨65535, by decide, by decide, rfl⟩

theorem witness_value_zero : ValueIs State.reset (tx "000") 0 :=
  .inr ⟨0, by decide, by decide, rfl⟩

theorem witness_value_register : ValueIs (withReg .ret 10) (regName .ret) 10 := .inl ⟨.ret, rfl, by decide⟩

theorem witness_not_register : NotRegister (tx "r5") := fun r => by cases r <;> decide

/-- The bad tokens of each class, just past the good ones: 65536 for a value, 0 for a line. -/
theorem witness_bad_value_range : BadValue (tx "65536") .operandRangeError :=
  .inr ⟨65536, by decide, by decide, rfl⟩

theorem witness_bad_value_type : BadValue (tx "r5") .operandTypeError :=
  .inl ⟨witness_not_register, by decide, rfl⟩

theorem witness_bad_register : BadRegister (tx "r5") .operandTypeError := ⟨witness_not_register, rfl⟩

theorem witness_bad_line_type : BadLine (tx "r1") .operandTypeError := .inl ⟨by decide, rfl⟩

theorem witness_bad_line_zero : BadLine (tx "0") .jumpOutOfRange := .inr ⟨by decide, rfl⟩

/-- A good slot 1 beside a bad slot 2, for `TwoSlotFaults`' last clause with class V and with class R. -/
theorem witness_second_slot_bad : (∀ k, ¬ BadValue (tx "65535") k) ∧ BadValue (tx "65536") .operandRangeError := by
  refine ⟨?_, witness_bad_value_range⟩
  have h : numeralValue (tx "65535") = some 65535 := by decide
  rintro k (⟨-, hn, -⟩ | ⟨n, hn, hlt, -⟩)
  · simp [h] at hn
  · simp only [h, Option.some.injEq] at hn
    omega

theorem witness_second_slot_bad_after_register : ∀ k, ¬ BadRegister (regName .r1) k := fun _ h => h.1 .r1 rfl

/-- SaveStoresAtPtr, FrameOfSave, SaveThenLoadRoundTrip: a canonical memory with a cell at `ptr`, and a value that clears it. -/
theorem witness_save : Memory.wf celled.mem = true ∧ ValueIs celled (tx "0") 0 ∧
    exec (.save (some (tx "0")) none) celled = .next ((celled.memWrite 10 0).advance) :=
  ⟨by decide, .inr ⟨0, by decide, by decide, rfl⟩, rfl⟩

/-- JmpGoesToLine, JmpifConsumesFlag: the least line, with the flag true and false. -/
theorem witness_jump_line_one : numeralValue (tx "1") = some (0 + 1) ∧ flagged.F = true ∧ State.reset.F = false := by
  decide

/-- NoSlotFaults, OneSlotFaults, TwoSlotFaults: each way the arity fails. -/
theorem witness_arity_slots : (some (tx "1") ≠ none ∨ (none : Option Token) ≠ none) ∧
    ((none : Option Token) = none ∨ some (tx "1") ≠ none) ∧ (some (tx "1") = none ∨ (none : Option Token) = none) := by
  decide

/-- NopOnlyAdvances: both first tokens, with the most spaces a line may have. -/
theorem witness_nop_lines : ((tx "  ").takeWhile (· != ' ') = [] ∧ (tx "  ").count ' ' = 2) ∧
    (tx "nop  ").takeWhile (· != ' ') = ['n', 'o', 'p'] ∧ (tx "nop  ").count ' ' = 2 := by decide

/-- A running state at the record of `nop`. -/
def atNop : State := { State.reset with IM := [encode (.nop none none)] }

/-- A running state at the record of `inc 3`, which faults. -/
def atBad : State := { State.reset with IM := [encode (.inc (some (tx "3")) none)] }

/-- A running state at the record of `save 5`. -/
def atSave : State := { State.reset with IM := [encode (.save (some (tx "5")) none)] }

/-- StepRunsDecodedInstruction. -/
theorem witness_step_runs : atNop.status = .running ∧ atNop.IM[atNop.pc]? = some (encode (.nop none none)) ∧
    decodeRecord (encode (.nop none none)) = .ok (.nop none none) := by decide

/-- StepEndsAtProgramEnd, both clauses, and StepBeyondEndFaults, one further. -/
theorem witness_program_end :
    ({ atNop with pc := 1 } : State).status = .running ∧ ({ atNop with pc := 1 } : State).pc = atNop.IM.length ∧
      State.reset.status = .running ∧ State.reset.IM = [] ∧ State.reset.pc = 0 ∧
      atNop.IM.length < ({ atNop with pc := 2 } : State).pc := by decide

/-- FinalStatusHasNoStep: both final statuses. -/
theorem witness_final_statuses : State.reset.finish.status ≠ .running ∧
    (State.reset.raise .arityError 1).status ≠ .running := by decide

/-- ReservedTagIsRefused: the least reserved tag. -/
theorem witness_reserved_tag :
    ({ State.reset with IM := [{ tag := 19, s1 := none, s2 := none }] } : State).IM[0]? =
        some { tag := 19, s1 := none, s2 := none } ∧ 18 < (19 : BitVec 5).toNat := by decide

/-- FaultingStepChangesOnlyStatus. -/
theorem witness_faulting_step : step atBad = .next (atBad.raise .operandTypeError 1) ∧
    (atBad.raise .operandTypeError 1).status = .faulted .operandTypeError 1 := ⟨rfl, rfl⟩

/-- ProgramIsNeverWritten, StepKeepsInvariant, OutputOnlyGrowsAndIsNeverRead: a step from a state of the invariant that has memory, a program and output. -/
theorem witness_step_of_invariant :
    ({ celled with IM := [encode (.print (some (regName .ptr)) none)], out := [.chr 1] } : State).Inv ∧
      step { celled with IM := [encode (.print (some (regName .ptr)) none)], out := [.chr 1] } =
        .next { celled with IM := [encode (.print (some (regName .ptr)) none)], out := [.chr 1, .dec 10], pc := 1 } :=
  ⟨⟨by decide, by decide, trivial⟩, rfl⟩

/-- FaultFreeIffReachedLinesValid: a running state whose next step is valid, and one whose next step is not. -/
theorem witness_step_valid : atNop.status = .running ∧ StepValid atNop := by
  refine ⟨rfl, by decide, fun i hi => ?_⟩
  have h : executes atNop = some (.nop none none) := by decide
  rw [h, Option.some.injEq] at hi
  subst hi
  exact ⟨[], rfl⟩

theorem witness_step_not_valid : atBad.status = .running ∧ ¬ StepValid atBad := by
  refine ⟨rfl, fun hv => ?_⟩
  obtain ⟨ops, ho⟩ := hv.2 _ (show executes atBad = some (.inc (some (tx "3")) none) by decide)
  have h : validate (.inc (some (tx "3")) none) atBad = .error .operandTypeError := by decide
  simp [h] at ho

/-- FlagWritersAndReaders: a step that sets the flag and one that clears it, a valid conditional seeing true, and instructions that are not conditional. -/
theorem witness_flag_changes :
    (run "equ 1 1" State.reset).map (·.F) = some true ∧ (run "skipins" flagged).map (·.F) = some false ∧
      validate (.skipins none none) flagged = .ok [] ∧ flagged.F = true := by decide

theorem witness_conditional : IsConditional (.jmpif none none) ∧ ¬ IsConditional (.jmp none none) ∧
    exec (.nop none none) flagged = .next flagged.advance := ⟨trivial, id, rfl⟩

/-- FlagStaysFalseUntilComparison: a run of one `nop`. -/
theorem witness_run_without_comparison : RunWithoutComparison atNop atNop.advance ∧ atNop.F = false := by
  refine ⟨.snoc .start (fun i hi => ?_) rfl, rfl⟩
  have h : executes atNop = some (.nop none none) := by decide
  rw [h, Option.some.injEq] at hi
  subst hi
  rfl

/-- CounterFollowsTable and ExecMeetsValidator: operands that validate, and operands that do not. -/
theorem witness_validate : validate (.jmpif (some (tx "1")) none) flagged = .ok [.line 1] ∧
    validate (.jmpif (some (tx "0")) none) flagged = .error .jumpOutOfRange := by decide

/-- EventRendering: the last code below 128 and the first from 128. -/
theorem witness_chr_codes : (127 : Byte).toNat < 128 ∧ (128 : Byte).toNat = 128 + (0 : Fin 128).val ∧
    (255 : Byte).toNat = 128 + (127 : Fin 128).val := by decide

/-- The frames and RegisterWritersTable: an instruction of each shape, each with a next state. -/
theorem witness_frames : IsRegisterWriter (.inc (some (regName .r1)) none) ∧ IsControl (.start none none) ∧
    IsOutput (.print (some (regName .r1)) none) ∧ Instr.isComparison (.equ (some (tx "1")) (some (tx "1"))) = true ∧
    exec (.inc (some (regName .r1)) none) State.reset = .next ((State.reset.setReg .r1 1).advance) ∧
    exec (.start none none) State.reset = .next State.reset ∧
    exec (.print (some (regName .r1)) none) State.reset = .next ((State.reset.emit (.dec 0)).advance) ∧
    exec (.equ (some (tx "1")) (some (tx "1"))) State.reset = .next flagged.advance :=
  ⟨trivial, trivial, trivial, rfl, rfl, rfl, rfl, rfl⟩

/-- RegisterWritersTable, PtrIsTheOnlyAddress: a register and a cell that do change. -/
theorem witness_changes : (run "inc ptr" State.reset).map (·.x.ptr) = some 1 ∧
    (run "save 5" State.reset).map (fun t => t.memRead 0) = some 5 ∧ State.reset.memRead 0 = 0 := by decide

/-- PtrIsTheOnlyAddress: another memory with the same cell at `ptr`. -/
theorem witness_same_cell : Memory.cell [(3, 9), (10, 7)] celled.x.ptr.toNat = celled.memRead celled.x.ptr := by decide

/-- CanonicalMemoryIsUnique. -/
theorem witness_canonical : Memory.wf [(0, 1), (65535, 2)] = true := by decide

/-- LoadSeesLatestSave: a run whose log is not empty. -/
theorem witness_run_saves :
    RunSaves atSave [(0, 5)] ((atSave.memWrite 0 5).advance) ∧ Memory.wf atSave.mem = true :=
  ⟨.snoc (t := atSave) .start rfl, rfl⟩

theorem witness_boot_run_saves : RunSaves (boot [tx "save 5"]) [(0, 5)] ((atSave.memWrite 0 5).advance) :=
  .snoc (t := boot [tx "save 5"]) .start (by rfl)

/-- ResetAndLoadedState and LoadStopsAtFirstFailingLine. -/
theorem witness_load : [tx "nop", tx ""].map decodeLine =
      [encode (.nop none none), encode (.nop none none)].map Except.ok ∧
    decodeLine (tx "a b c d") = .error .malformedLine := by decide

/-- MalformedIffThreeSpaces and UnknownMnemonicIff: two spaces and three. -/
theorem witness_space_counts : (tx "a b c").count ' ' = 2 ∧ decodeLine (tx "a b c") = .error .unknownMnemonic ∧
    (tx "a b c ").count ' ' = 3 ∧ decodeLine (tx "a b c ") = .error .malformedLine := by decide

/-- DecodedLineIsAnInstruction and LineEncodingRoundTrip: an instruction with slot 2 alone. -/
theorem witness_slot_two_alone : (Instr.add none (some (tx "1"))).wellFormed = true ∧
    decodeLine (tx "add  1") = .ok (encode (.add none (some (tx "1")))) := by decide

/-- DecodedLineIsAnInstruction: the token at slot 1 not empty, the one at slot 2 empty, and a first token that is a mnemonic of the table. -/
theorem witness_slots_and_mnemonic : (tx "skipins x ").takeWhile (· != ' ') = tx "skipins" ∧
    (tx "skipins", 0b10001, Instr.skipins) ∈ mnemonicRows ∧
    (splitSpaces (tx "skipins x "))[1]? = some (tx "x") ∧ (splitSpaces (tx "skipins x "))[2]? = some [] ∧
    decodeLine (tx "skipins x ") = .ok { tag := 0b10001, s1 := some (tx "x"), s2 := none } :=
  ⟨by decide, by simp [mnemonicRows]; decide, by decide, by decide, by decide⟩

/-- EventRendering: the first and the last digit, with their ASCII codes. -/
theorem witness_decimal_digits : '0' ∈ decimal 90 ∧ '9' ∈ decimal 90 ∧
    renderEvent (.dec 90) = [0x39, 0x30, 0x0A] := by decide

/-- HostReadsStatusAndDump. -/
theorem witness_fault_kind : FaultKind.jumpOutOfRange ≠ .fetchOutOfRange ∧ FaultKind.jumpOutOfRange ≠ .unknownRegister := by
  decide

end Sys2Proof.Tests
end

section
/-! The pieces of a line (00_scope.md R14): the model's own split is the library's `List.splitOn` at the space, and the laws of the split are read off one equation per first character. -/

namespace Sys2Proof

/-- A space opens an empty piece in front of the rest's pieces. -/
@[simp] theorem splitSpaces_space_cons (cs : Line) :
    splitSpaces (spaceChar :: cs) = [] :: splitSpaces cs := by
  rw [splitSpaces, if_pos rfl]

/-- Any other character joins the first piece of the rest, which is there as a split is never empty. -/
theorem splitSpaces_cons_of_ne {c : Char} (hc : c ≠ spaceChar) (cs : Line) :
    splitSpaces (c :: cs) = (splitSpaces cs).modifyHead (c :: ·) := by
  rw [splitSpaces, if_neg hc]
  cases h : splitSpaces cs with
  | nil => exact absurd h (splitSpaces_ne_nil cs)
  | cons t ts => rfl

theorem splitSpaces_eq_splitOn (l : Line) : splitSpaces l = l.splitOn spaceChar := by
  induction l with
  | nil => simp [splitSpaces]
  | cons c cs ih =>
    by_cases hc : c = spaceChar
    · subst hc
      simp [List.splitOn_cons_eq_if_modifyHead, ih]
    · simp [splitSpaces_cons_of_ne hc, List.splitOn_cons_eq_if_modifyHead, hc, ih]

theorem intercalate_splitSpaces (l : Line) : List.intercalate [spaceChar] (splitSpaces l) = l := by
  rw [splitSpaces_eq_splitOn, List.intercalate_splitOn]

theorem spaceChar_not_mem_of_mem_splitSpaces (l : Line) : ∀ p ∈ splitSpaces l, spaceChar ∉ p := by
  induction l with
  | nil => simp [splitSpaces]
  | cons c cs ih =>
    by_cases hc : c = spaceChar
    · subst hc
      simpa using ih
    · obtain ⟨t, ts, h⟩ := List.exists_cons_of_ne_nil (splitSpaces_ne_nil cs)
      simpa [splitSpaces_cons_of_ne hc, h, Ne.symm hc] using ih

theorem length_splitSpaces (l : Line) : (splitSpaces l).length = l.count spaceChar + 1 := by
  induction l with
  | nil => rfl
  | cons c cs ih =>
    by_cases hc : c = spaceChar
    · subst hc
      simp [ih]
    · simp [splitSpaces_cons_of_ne hc, hc, ih]

/-- Settles O52: the four clauses are the laws above, at the model's `spaceChar`, U+0020. -/
theorem splitAtEverySpace : Obligations.SplitAtEverySpace := by
  unfold Obligations.SplitAtEverySpace
  exact ⟨intercalate_splitSpaces, spaceChar_not_mem_of_mem_splitSpaces, length_splitSpaces, rfl⟩

end Sys2Proof
end

section
/-! What an instruction with validated operands completes with, said once for all nineteen (30_encoding.md R86, 10_state.md R41, R42): `Completes` lists the effects, and `exec` is the table-driven validator followed by them. -/

namespace Sys2Proof.Machine

/-- From `s`, the instruction validates to the operands listed and its effect gives the state; one constructor per instruction. -/
inductive Completes (s : State) : Instr → List Operand → State → Prop
  | set {a b p} (h : operandsRV s a b = .ok p) :
      Completes s (.set a b) [.reg p.1, .val p.2] (s.setReg p.1 p.2).advance
  | add {a b p} (h : operandsVV s a b = .ok p) :
      Completes s (.add a b) [.val p.1, .val p.2] (s.setReg .ret (satAdd p.1 p.2)).advance
  | sub {a b p} (h : operandsVV s a b = .ok p) :
      Completes s (.sub a b) [.val p.1, .val p.2] (s.setReg .ret (satSub p.1 p.2)).advance
  | mul {a b p} (h : operandsVV s a b = .ok p) :
      Completes s (.mul a b) [.val p.1, .val p.2] (s.setReg .ret (satMul p.1 p.2)).advance
  | div {a b p} (h : operandsVV s a b = .ok p) :
      Completes s (.div a b) [.val p.1, .val p.2] (s.setReg .ret (satDiv p.1 p.2)).advance
  | save {a b v} (h : operandsV s a b = .ok v) :
      Completes s (.save a b) [.val v] (s.memWrite s.effectiveAddress v).advance
  | load {a b r} (h : operandsR a b = .ok r) :
      Completes s (.load a b) [.reg r] (s.setReg r (s.memRead s.effectiveAddress)).advance
  | inc {a b r} (h : operandsR a b = .ok r) :
      Completes s (.inc a b) [.reg r] (s.setReg r (satAdd (s.reg r) 1)).advance
  | dec {a b r} (h : operandsR a b = .ok r) :
      Completes s (.dec a b) [.reg r] (s.setReg r (satSub (s.reg r) 1)).advance
  | start {a b u} (h : operandsNone a b = .ok u) : Completes s (.start a b) [] (s.goto 0)
  | print {a b r} (h : operandsR a b = .ok r) :
      Completes s (.print a b) [.reg r] (s.emit (.dec (s.reg r))).advance
  | printa {a b r} (h : operandsR a b = .ok r) :
      Completes s (.printa a b) [.reg r] (s.emit (.chr (lowByte (s.reg r)))).advance
  | jmp {a b n} (h : operandsL a b = .ok n) : Completes s (.jmp a b) [.line n] (s.goto (n - 1))
  | jmpif {a b n} (h : operandsL a b = .ok n) : Completes s (.jmpif a b) [.line n] (s.consumeFlag (n - 1))
  | smaller {a b p} (h : operandsVV s a b = .ok p) :
      Completes s (.smaller a b) [.val p.1, .val p.2] (s.setFlag (flagSmaller p.1 p.2)).advance
  | greater {a b p} (h : operandsVV s a b = .ok p) :
      Completes s (.greater a b) [.val p.1, .val p.2] (s.setFlag (flagGreater p.1 p.2)).advance
  | equ {a b p} (h : operandsVV s a b = .ok p) :
      Completes s (.equ a b) [.val p.1, .val p.2] (s.setFlag (flagEqual p.1 p.2)).advance
  | skipins {a b u} (h : operandsNone a b = .ok u) : Completes s (.skipins a b) [] (s.consumeFlag (s.pc + 2))
  | nop {a b u} (h : operandsNone a b = .ok u) : Completes s (.nop a b) [] s.advance

/-! ## The validator on each operand form (30_encoding.md R74, R80, R81) -/

theorem validate_none {i : Instr} (s : State) (hc : i.classes = []) :
    validate i s = (operandsNone i.slot1 i.slot2).map fun _ => [] := by
  unfold validate Instr.arityOk Instr.arity
  rw [hc]
  cases i.slot1 <;> cases i.slot2 <;> rfl

/-- One operand of any class: slot 1 alone is present and resolves. -/
theorem validate_one {i : Instr} {c : OperandClass} (s : State) (hc : i.classes = [c]) :
    validate i s = match i.slot1, i.slot2 with
      | some t, none => (resolveSlot s c t).map fun o => [o]
      | _, _ => .error .arityError := by
  unfold validate Instr.arityOk Instr.arity
  rw [hc]
  cases i.slot1 <;> cases i.slot2 <;> try rfl
  next t =>
    change resolveSlots s [c] [some t, none] = _
    cases h : resolveSlot s c t <;> simp [resolveSlots, h, Except.map]

/-- Two operands of any classes: both slots are present and resolve, slot 1 first. -/
theorem validate_two {i : Instr} {c d : OperandClass} (s : State) (hc : i.classes = [c, d]) :
    validate i s = match i.slot1, i.slot2 with
      | some t, some u => (resolveSlot s c t).bind fun o => (resolveSlot s d u).map fun o' => [o, o']
      | _, _ => .error .arityError := by
  unfold validate Instr.arityOk Instr.arity
  rw [hc]
  cases i.slot1 <;> cases i.slot2 <;> try rfl
  next t u =>
    change resolveSlots s [c, d] [some t, some u] = _
    cases h : resolveSlot s c t <;> cases h' : resolveSlot s d u <;>
      simp [resolveSlots, h, h', Except.bind, Except.map]

theorem validate_R {i : Instr} (s : State) (hc : i.classes = [.R]) :
    validate i s = (operandsR i.slot1 i.slot2).map fun r => [.reg r] := by
  rw [validate_one s hc]
  cases i.slot1 <;> cases i.slot2 <;> try rfl
  next t => cases h : resolveReg t <;> simp [operandsR, resolveSlot, h, Except.map]

theorem validate_V {i : Instr} (s : State) (hc : i.classes = [.V]) :
    validate i s = (operandsV s i.slot1 i.slot2).map fun v => [.val v] := by
  rw [validate_one s hc]
  cases i.slot1 <;> cases i.slot2 <;> try rfl
  next t => cases h : resolveVal s t <;> simp [operandsV, resolveSlot, h, Except.map]

theorem validate_L {i : Instr} (s : State) (hc : i.classes = [.L]) :
    validate i s = (operandsL i.slot1 i.slot2).map fun n => [.line n] := by
  rw [validate_one s hc]
  cases i.slot1 <;> cases i.slot2 <;> try rfl
  next t => cases h : resolveLine t <;> simp [operandsL, resolveSlot, h, Except.map]

theorem validate_RV {i : Instr} (s : State) (hc : i.classes = [.R, .V]) :
    validate i s = (operandsRV s i.slot1 i.slot2).map fun p => [.reg p.1, .val p.2] := by
  rw [validate_two s hc]
  cases i.slot1 <;> cases i.slot2 <;> try rfl
  next t u =>
    cases h : resolveReg t <;> cases h' : resolveVal s u <;>
      simp [operandsRV, resolveSlot, h, h', Except.bind, Except.map]

theorem validate_VV {i : Instr} (s : State) (hc : i.classes = [.V, .V]) :
    validate i s = (operandsVV s i.slot1 i.slot2).map fun p => [.val p.1, .val p.2] := by
  rw [validate_two s hc]
  cases i.slot1 <;> cases i.slot2 <;> try rfl
  next t u =>
    cases h : resolveVal s t <;> cases h' : resolveVal s u <;>
      simp [operandsVV, resolveSlot, h, h', Except.bind, Except.map]

/-! ## Every instruction is the validator, then its effect (10_state.md R41, R42) -/

/-- The two ways an instruction goes, decided by the validator alone (30_encoding.md R86). -/
def ExecutesAsValidated (i : Instr) (s : State) : Prop :=
  (∃ ops t, validate i s = .ok ops ∧ exec i s = .next t ∧ Completes s i ops t) ∨
    ∃ k, validate i s = .error k ∧ exec i s = .next (s.raise k s.line)

/-- An instruction whose typed operands are those of the validator, and whose effect is that of `Completes`. -/
theorem ExecutesAsValidated.of_operands {α : Type} {i : Instr} {s : State} {operands : Except FaultKind α}
    {toList : α → List Operand} {effect : α → State} (hv : validate i s = operands.map toList)
    (he : exec i s = validated s operands effect)
    (hc : ∀ {v}, operands = .ok v → Completes s i (toList v) (effect v)) : ExecutesAsValidated i s := by
  cases h : operands with
  | ok v => exact .inl ⟨toList v, effect v, by rw [hv, h]; rfl, by rw [he, h]; rfl, hc h⟩
  | error k => exact .inr ⟨k, by rw [hv, h]; rfl, by rw [he, h]; rfl⟩

theorem executesAsValidated (i : Instr) (s : State) : ExecutesAsValidated i s := by
  cases i with
  | set a b => exact .of_operands (validate_RV s rfl) rfl .set
  | add a b => exact .of_operands (validate_VV s rfl) rfl .add
  | sub a b => exact .of_operands (validate_VV s rfl) rfl .sub
  | mul a b => exact .of_operands (validate_VV s rfl) rfl .mul
  | div a b => exact .of_operands (validate_VV s rfl) rfl .div
  | save a b => exact .of_operands (validate_V s rfl) rfl .save
  | load a b => exact .of_operands (validate_R s rfl) rfl .load
  | inc a b => exact .of_operands (validate_R s rfl) rfl .inc
  | dec a b => exact .of_operands (validate_R s rfl) rfl .dec
  | start a b => exact .of_operands (validate_none s rfl) rfl .start
  | print a b => exact .of_operands (validate_R s rfl) rfl .print
  | printa a b => exact .of_operands (validate_R s rfl) rfl .printa
  | jmp a b => exact .of_operands (validate_L s rfl) rfl .jmp
  | jmpif a b => exact .of_operands (validate_L s rfl) rfl .jmpif
  | smaller a b => exact .of_operands (validate_VV s rfl) rfl .smaller
  | greater a b => exact .of_operands (validate_VV s rfl) rfl .greater
  | equ a b => exact .of_operands (validate_VV s rfl) rfl .equ
  | skipins a b => exact .of_operands (validate_none s rfl) rfl .skipins
  | nop a b => exact .of_operands (validate_none s rfl) rfl .nop

theorem exec_of_validate_ok {i : Instr} {s : State} {ops : List Operand} (h : validate i s = .ok ops) :
    ∃ t, exec i s = .next t ∧ Completes s i ops t := by
  rcases executesAsValidated i s with ⟨ops', t, hv, he, hc⟩ | ⟨k, hv, -⟩
  · obtain rfl : ops = ops' := Except.ok.inj (h.symm.trans hv)
    exact ⟨t, he, hc⟩
  · simp [h] at hv

theorem exec_of_validate_error {i : Instr} {s : State} {k : FaultKind} (h : validate i s = .error k) :
    exec i s = .next (s.raise k s.line) := by
  rcases executesAsValidated i s with ⟨ops, t, hv, -, -⟩ | ⟨k', hv, he⟩
  · simp [h] at hv
  · obtain rfl : k = k' := Except.error.inj (h.symm.trans hv)
    exact he

/-- A next state of an instruction is its completion, or the fault of its validation. -/
theorem exec_completes_or_raises {i : Instr} {s t : State} (h : exec i s = .next t) :
    (∃ ops, Completes s i ops t) ∨ ∃ k, t = s.raise k s.line := by
  rcases executesAsValidated i s with ⟨ops, t', -, he, hc⟩ | ⟨k, -, he⟩
  · obtain rfl : t' = t := Host.Outcome.next.inj (he.symm.trans h)
    exact .inl ⟨ops, hc⟩
  · exact .inr ⟨k, Host.Outcome.next.inj (h.symm.trans he)⟩

end Sys2Proof.Machine
end

section
/-! What a completed instruction changes and leaves unchanged, and the same of `exec` (10_state.md R23, R25, R30, R33). -/

namespace Sys2Proof.Machine

open Sys2Proof.Claims

/-! ## Registers -/

/-- A class-R token resolves exactly to the register it names (30_encoding.md R82). -/
theorem resolveReg_eq_ok {t : Token} {r : Reg} : resolveReg t = .ok r ↔ t = regName r := by
  rw [← regOfToken_eq_some, resolveReg]
  cases regOfToken t <;> simp

theorem operandsR_slot1 {a b : Option Token} {r : Reg} (h : operandsR a b = .ok r) : a = some (regName r) := by
  obtain ⟨t, rfl, -, ht⟩ := operandsR_ok.mp h
  rw [resolveReg_eq_ok.mp ht]

theorem operandsRV_slot1 {s : State} {a b : Option Token} {p : Reg × Word} (h : operandsRV s a b = .ok p) :
    a = some (regName p.1) := by
  obtain ⟨t, u, rfl, -, ht, -⟩ := operandsRV_ok.mp h
  rw [resolveReg_eq_ok.mp ht]

/-- A register other than the written one holds what it held. -/
theorem RegFile.get_put_of_ne {x : RegFile} {r q : Reg} {v : Word} (h : q ≠ r) : (x.put r v).get q = x.get q := by
  rw [RegFile.get_put, if_neg h]

/-- The table of writers (10_state.md R23), for a completed instruction. -/
theorem Completes.get_of_not_writesOnly {s t : State} {i : Instr} {ops : List Operand} (hc : Completes s i ops t)
    {q : Reg} (hq : ¬ WritesOnly i q) : t.x.get q = s.x.get q := by
  cases hc with
  | set h => exact RegFile.get_put_of_ne fun e => hq (e ▸ operandsRV_slot1 h)
  | load h | inc h | dec h => exact RegFile.get_put_of_ne fun e => hq (e ▸ operandsR_slot1 h)
  | add | sub | mul | div => exact RegFile.get_put_of_ne hq
  | save | start | print | printa | jmp | jmpif | smaller | greater | equ | skipins | nop => simp

theorem exec_get_of_not_writesOnly {i : Instr} {s t : State} (h : exec i s = .next t) {q : Reg}
    (hq : ¬ WritesOnly i q) : t.x.get q = s.x.get q := by
  rcases exec_completes_or_raises h with ⟨ops, hc⟩ | ⟨k, rfl⟩
  · exact hc.get_of_not_writesOnly hq
  · rfl

/-! ## Flag -/

/-- The flag after a completed instruction: kept, a comparison's result, or false after a conditional (10_state.md R25). -/
theorem Completes.flag_cases {s t : State} {i : Instr} {ops : List Operand} (hc : Completes s i ops t) :
    t.F = s.F ∨ Instr.isComparison i = true ∨ IsConditional i ∧ t.F = false := by
  cases hc with
  | smaller | greater | equ => exact .inr (.inl rfl)
  | jmpif | skipins => exact .inr (.inr ⟨trivial, State.consumeFlag_F s _⟩)
  | _ => exact .inl rfl

theorem Completes.flag_of_conditional {s t : State} {i : Instr} {ops : List Operand} (hc : Completes s i ops t)
    (hi : IsConditional i) : t.F = false := by
  cases hc with
  | jmpif | skipins => exact State.consumeFlag_F s _
  | _ => exact hi.elim

/-- An instruction that changes the flag is a comparison, or a conditional that sees true and leaves false. -/
theorem exec_flag_changes {i : Instr} {s t : State} (h : exec i s = .next t) (hF : t.F ≠ s.F) :
    Instr.isComparison i = true ∨ IsConditional i ∧ s.F = true ∧ t.F = false := by
  rcases exec_completes_or_raises h with ⟨ops, hc⟩ | ⟨k, rfl⟩
  · rcases hc.flag_cases with he | hcmp | ⟨hi, ht⟩
    · exact absurd he hF
    · exact .inl hcmp
    · exact .inr ⟨hi, by simpa [ht] using hF, ht⟩
  · exact absurd rfl hF

/-! ## Output, status and counter; the frame of the register writers -/

theorem Completes.status_eq {s t : State} {i : Instr} {ops : List Operand} (hc : Completes s i ops t) :
    t.status = s.status := by
  cases hc <;> simp

/-- The output after a completed instruction: one Dec event more after `print`, one Chr event more after `printa`, and otherwise as it was (10_state.md R33). -/
theorem Completes.out_cases {s t : State} {i : Instr} {ops : List Operand} (hc : Completes s i ops t) :
    t.out = s.out ∨ (∃ a b v, i = .print a b ∧ t.out = s.out ++ [.dec v]) ∨
      ∃ a b c, i = .printa a b ∧ t.out = s.out ++ [.chr c] := by
  cases hc with
  | print => exact .inr (.inl ⟨_, _, _, rfl, rfl⟩)
  | printa => exact .inr (.inr ⟨_, _, _, rfl, rfl⟩)
  | _ => simp

/-- The counter after a completed instruction is that of the table (10_state.md R30). -/
theorem Completes.pc_eq {s t : State} {i : Instr} {ops : List Operand} (hc : Completes s i ops t) :
    t.pc = nextPc i ops s := by
  cases hc <;> simp [nextPc]

/-- A completed register writer changes no flag, cell, program or output. -/
theorem Completes.frame_of_registerWriter {s t : State} {i : Instr} {ops : List Operand} (hc : Completes s i ops t)
    (hi : IsRegisterWriter i) : t.F = s.F ∧ t.mem = s.mem ∧ t.IM = s.IM ∧ t.out = s.out := by
  cases hc with
  | set | add | sub | mul | div | load | inc | dec => exact ⟨rfl, rfl, rfl, rfl⟩
  | _ => exact hi.elim

theorem exec_statusKeptOrFaulted {i : Instr} {s t : State} (h : exec i s = .next t) : StatusKeptOrFaulted s t := by
  rcases exec_completes_or_raises h with ⟨ops, hc⟩ | ⟨k, rfl⟩
  · exact .inl hc.status_eq
  · exact .inr ⟨k, rfl⟩

end Sys2Proof.Machine
end

section
/-! Settled here: the controller's step, reset and the load phase, the counter and the writers of registers (10_state.md sections 1, 2, 5 and 6). -/

namespace Sys2Proof

open Sys2Proof.Machine Sys2Proof.Claims

/-! ## The controller's step -/

/-- Settles O1: the fetch finds the record, and the step is the decoded instruction's `exec`. -/
theorem stepRunsDecodedInstruction : Obligations.StepRunsDecodedInstruction := by
  unfold Obligations.StepRunsDecodedInstruction
  intro s r i hs hr hd
  simp [step, hs, fetch_record hr, hd]

theorem step_atEnd {s : State} (hs : s.status = .running) (hpc : s.pc = s.IM.length) : step s = .next s.finish := by
  simp [step, hs, fetch_atEnd hpc]

/-- Settles O2: the empty program is the case `pc = 0 = N`. -/
theorem stepEndsAtProgramEnd : Obligations.StepEndsAtProgramEnd :=
  ⟨fun _ hs hpc => step_atEnd hs hpc, fun _ hs hIM hpc => step_atEnd hs (by simp [hpc, hIM])⟩

/-- Settles O3: the fetch beyond the end raises the fault. -/
theorem stepBeyondEndFaults : Obligations.StepBeyondEndFaults := by
  unfold Obligations.StepBeyondEndFaults
  intro s hs hpc
  simp [step, hs, fetch_beyond hpc, State.raise]

/-- Settles O4: a step that answers a next state was taken by a running controller. -/
theorem finalStatusHasNoStep : Obligations.FinalStatusHasNoStep := by
  unfold Obligations.FinalStatusHasNoStep
  intro s hs t h
  exact hs (step_cases h).1

/-- Settles O6: the end of the run and a completed instruction leave no fault, so the step raised one itself, at the fetch or at validation. -/
theorem faultingStepChangesOnlyStatus : Obligations.FaultingStepChangesOnlyStatus := by
  unfold Obligations.FaultingStepChangesOnlyStatus
  intro s t k l h ht
  have raised : ∀ k', t = s.raise k' s.line → t = { s with status := .faulted k l } ∧ l = s.pc + 1 := by
    rintro k' rfl
    obtain ⟨rfl, rfl⟩ : k' = k ∧ s.pc + 1 = l := by simpa using ht
    exact ⟨rfl, rfl⟩
  obtain ⟨hs, ⟨-, -, rfl⟩ | ⟨-, -, he⟩ | ⟨r, i, -, -, -, he⟩⟩ := step_cases h
  · simp at ht
  · exact raised _ he
  · rcases exec_cases he with ⟨k', hk⟩ | ⟨hkept, -⟩
    · exact raised k' hk
    · simp [hkept, hs] at ht

/-- Settles O15: a validated instruction completes, with the table's counter. -/
theorem counterFollowsTable : Obligations.CounterFollowsTable := by
  unfold Obligations.CounterFollowsTable
  intro i s ops h
  obtain ⟨t, he, hc⟩ := exec_of_validate_ok h
  exact ⟨t, he, hc.pc_eq⟩

/-- Settles O16: a failed validation is the fault raised, a successful one a completed instruction, which keeps the status. -/
theorem execMeetsValidator : Obligations.ExecMeetsValidator := by
  refine ⟨fun i s k h => exec_of_validate_error h, fun i s ops h => ?_⟩
  obtain ⟨t, he, hc⟩ := exec_of_validate_ok h
  exact ⟨t, he, hc.status_eq⟩

/-! ## Reset and the load phase -/

/-- Settles O50, register by register. -/
theorem resetRegistersAndFlag : Obligations.ResetRegistersAndFlag := by
  refine ⟨fun r => ?_, rfl⟩
  cases r <;> rfl

/-- Settles O9: the memory and the program are empty and the status is Running. -/
theorem resetMeetsInvariant : Obligations.ResetMeetsInvariant :=
  { memory := reset_mem_wf, program := fun _ h => absurd h List.not_mem_nil, status := trivial }

/-- Lines that all decode are appended to the instruction memory in order, and nothing else changes (30_encoding.md R70). -/
theorem loadFrom_of_decodes {lines : List Line} {recs : List Record}
    (h : lines.map decodeLine = recs.map Except.ok) (n : Nat) (s : State) :
    loadFrom n lines s = { s with IM := s.IM ++ recs } := by
  induction lines generalizing recs n s with
  | nil =>
    obtain rfl : recs = [] := by simpa using h.symm
    simp [loadFrom]
  | cons l ls ih =>
    cases recs with
    | nil => simp at h
    | cons r rs =>
      obtain ⟨hl, hls⟩ : decodeLine l = .ok r ∧ ls.map decodeLine = rs.map Except.ok := by simpa using h
      simp [loadFrom, hl, ih hls]

theorem boot_of_decodes {lines : List Line} {recs : List Record} (h : lines.map decodeLine = recs.map Except.ok) :
    boot lines = { State.reset with IM := recs } := by
  simp [boot, loadProgram, loadFrom_of_decodes h]

/-- Settles O49: the boot state is the reset state with the records as its program. -/
theorem resetAndLoadedState : Obligations.ResetAndLoadedState := by
  unfold Obligations.ResetAndLoadedState
  intro lines recs h
  rw [boot_of_decodes h]
  exact ⟨rfl, fun _ => rfl, rfl, rfl, rfl, rfl, fun _ => rfl, rfl, rfl⟩

/-! ## The writers of registers -/

/-- Settles O44: a register no row of the table names for the instruction keeps its value. -/
theorem registerWritersTable : Obligations.RegisterWritersTable := by
  unfold Obligations.RegisterWritersTable
  intro i s t q h hq
  by_contra hw
  exact hq (exec_get_of_not_writesOnly h hw)

/-- Settles O39: a completed writer has the frame above, and a raised fault changes the status alone. -/
theorem frameOfRegisterWriters : Obligations.FrameOfRegisterWriters := by
  unfold Obligations.FrameOfRegisterWriters
  intro i s t hi h
  have frame : t.F = s.F ∧ t.mem = s.mem ∧ t.IM = s.IM ∧ t.out = s.out := by
    rcases exec_completes_or_raises h with ⟨ops, hc⟩ | ⟨k, rfl⟩
    · exact hc.frame_of_registerWriter hi
    · exact ⟨rfl, rfl, rfl, rfl⟩
  obtain ⟨hF, hmem, hIM, hout⟩ := frame
  exact ⟨fun q hq => exec_get_of_not_writesOnly h hq, hF, fun ea => by rw [State.memRead, hmem]; rfl, hIM, hout,
    exec_statusKeptOrFaulted h⟩

end Sys2Proof
end

section
/-! Settled here: the output port and the flag over all instructions (10_state.md R25, R26, R33). -/

namespace Sys2Proof

open Sys2Proof.Machine Sys2Proof.Claims

/-! ## Class-V operands and the comparisons -/

/-- No register's name is a numeral. -/
theorem numeralValue_regName (r : Reg) : numeralValue (regName r) = none := by
  cases r <;> decide

/-- A class-V token resolves to its value (30_encoding.md R84). -/
theorem resolveVal_of_valueIs {s : State} {t : Token} {v : Word} (h : ValueIs s t v) : resolveVal s t = .ok v := by
  rcases h with ⟨r, rfl, rfl⟩ | ⟨n, hn, hle, hv⟩
  · simp [resolveVal]
  · have hr : regOfToken t = none := by
      refine Option.eq_none_iff_forall_ne_some.mpr fun r hr => ?_
      rw [regOfToken_eq_some.mp hr, numeralValue_regName] at hn
      simp at hn
    subst hv
    simp [resolveVal, hr, hn, hle]

/-- A comparison of two values writes its result to the flag, whatever the flag was (47_compare.md R180). -/
theorem comparison_of_values (f : Word → Word → Bool) {s : State} {a b : Token} {v w : Word}
    (ha : ValueIs s a v) (hb : ValueIs s b w) :
    comparison f (some a) (some b) s = .next { s with F := f v w, pc := s.pc + 1 } := by
  have hops : operandsVV s (some a) (some b) = .ok (v, w) :=
    operandsVV_ok.mpr ⟨a, b, rfl, rfl, resolveVal_of_valueIs ha, resolveVal_of_valueIs hb⟩
  rw [comparison, hops]
  rfl

theorem smaller_gives : ComparisonGives .smaller fun a b => decide (a < b) :=
  fun _ _ _ _ _ ha hb => comparison_of_values flagSmaller ha hb

theorem greater_gives : ComparisonGives .greater fun a b => decide (b < a) :=
  fun _ _ _ _ _ ha hb => comparison_of_values flagGreater ha hb

theorem equ_gives : ComparisonGives .equ fun a b => decide (a = b) :=
  fun _ _ _ _ _ ha hb => comparison_of_values flagEqual ha hb

/-! ## The same instruction from a state that differs in one field -/

/-- `validated` from two states: related faults and related effects give related next states. -/
theorem validated_related {α : Type} {R : State → State → Prop} {s s' t : State} {ops : Except FaultKind α}
    {effect effect' : α → State} (h : validated s ops effect = .next t)
    (hraise : ∀ k, R (s.raise k s.line) (s'.raise k s'.line)) (heffect : ∀ v, R (effect v) (effect' v)) :
    ∃ u, validated s' ops effect' = .next u ∧ R t u := by
  rcases validated_cases h with ⟨v, rfl, rfl⟩ | ⟨k, rfl, rfl⟩
  · exact ⟨_, rfl, heffect v⟩
  · exact ⟨_, rfl, hraise k⟩

/-- Two states that agree in all but the flag. -/
def EqualButFlag (t u : State) : Prop := { u with F := t.F } = t

/-- An instruction that is not conditional does not read the flag (10_state.md R25). -/
theorem exec_withFlag {i : Instr} {s t : State} (b : Bool) (hi : ¬ IsConditional i) (h : exec i s = .next t) :
    ∃ u, exec i { s with F := b } = .next u ∧ EqualButFlag t u := by
  cases i with
  | jmpif | skipins => exact absurd trivial hi
  | set | add | sub | mul | div | save | load | inc | dec | start | print | printa | jmp | smaller | greater | equ
  | nop => exact validated_related h (fun _ => rfl) (fun _ => rfl)

/-- `t`, taken as a successor of `s`, with the output that stood in `s` replaced by `before`. -/
def rebaseOutput (s : State) (before : List OutEvent) (t : State) : State :=
  { t with out := before ++ t.out.drop s.out.length }

theorem rebaseOutput_of_append {s t : State} {es : List OutEvent} (before : List OutEvent)
    (h : t.out = s.out ++ es) : rebaseOutput s before t = { t with out := before ++ es } := by
  simp [rebaseOutput, h]

theorem rebaseOutput_of_eq {s t : State} (before : List OutEvent) (h : t.out = s.out) :
    rebaseOutput s before t = { t with out := before } := by
  simp [rebaseOutput, h]

theorem consumeFlag_withOutput (s : State) (before : List OutEvent) (n : Nat) :
    rebaseOutput s before (s.consumeFlag n) = State.consumeFlag { s with out := before } n := by
  rw [rebaseOutput_of_eq before (by simp)]
  cases h : s.F <;> simp [State.consumeFlag, h, State.setFlag, State.advance, State.goto]

/-- A validated effect that does not read the output gives the rebased state from another earlier output; so does a fault. -/
theorem validated_withOutput {α : Type} {s t : State} {ops : Except FaultKind α} {effect effect' : α → State}
    (before : List OutEvent) (h : validated s ops effect = .next t)
    (heffect : ∀ v, rebaseOutput s before (effect v) = effect' v) :
    validated { s with out := before } ops effect' = .next (rebaseOutput s before t) := by
  obtain ⟨u, hu, rfl⟩ := validated_related (R := fun t u => rebaseOutput s before t = u)
    (s' := { s with out := before }) h (fun _ => rebaseOutput_of_eq before rfl) heffect
  exact hu

/-- No instruction reads the output: from another earlier output it appends the same events (10_state.md R33). -/
theorem exec_withOutput {i : Instr} {s t : State} (before : List OutEvent) (h : exec i s = .next t) :
    exec i { s with out := before } = .next (rebaseOutput s before t) := by
  cases i with
  | print | printa => exact validated_withOutput before h (fun _ => rebaseOutput_of_append before rfl)
  | jmpif | skipins => exact validated_withOutput before h (fun _ => consumeFlag_withOutput s before _)
  | set | add | sub | mul | div | save | load | inc | dec | start | jmp | smaller | greater | equ | nop =>
    exact validated_withOutput before h (fun _ => rebaseOutput_of_eq before rfl)

theorem step_withOutput {s t : State} (before : List OutEvent) (h : step s = .next t) :
    step { s with out := before } = .next (rebaseOutput s before t) := by
  obtain ⟨hs, ⟨hpc, -, rfl⟩ | ⟨hpc, -, rfl⟩ | ⟨r, i, hr, hd, -, he⟩⟩ := step_cases h
  · rw [rebaseOutput_of_eq before s.finish_out]
    exact step_atEnd hs hpc
  · rw [rebaseOutput_of_eq before (s.raise_out _ _)]
    exact stepBeyondEndFaults _ hs hpc
  · rw [stepRunsDecodedInstruction { s with out := before } r i hs hr hd]
    exact exec_withOutput before he

/-! ## The output port and the flag over all instructions -/

/-- What a step makes of the output: one event more of the printing instruction's own form, or nothing (10_state.md R33). -/
theorem step_out_cases {s t : State} (h : step s = .next t) : t.out = s.out ∨
    (∃ a b v, executes s = some (.print a b) ∧ t.out = s.out ++ [.dec v]) ∨
      ∃ a b c, executes s = some (.printa a b) ∧ t.out = s.out ++ [.chr c] := by
  obtain ⟨-, ⟨-, -, rfl⟩ | ⟨-, -, rfl⟩ | ⟨r, i, -, -, hi, he⟩⟩ := step_cases h
  · exact .inl rfl
  · exact .inl rfl
  · rcases exec_completes_or_raises he with ⟨ops, hc⟩ | ⟨k, rfl⟩
    · rcases hc.out_cases with hout | ⟨a, b, v, rfl, hout⟩ | ⟨a, b, c, rfl, hout⟩
      · exact .inl hout
      · exact .inr (.inl ⟨a, b, v, hi, hout⟩)
      · exact .inr (.inr ⟨a, b, c, hi, hout⟩)
    · exact .inl rfl

/-- Settles O12: what a step appends, and that it appends the same after any earlier output. -/
theorem outputOnlyGrowsAndIsNeverRead : Obligations.OutputOnlyGrowsAndIsNeverRead :=
  ⟨rfl, fun _ _ h => step_out_cases h, fun _ _ before h => step_withOutput before h⟩

/-- A step changes the flag only by executing a comparison, or a conditional that sees true (10_state.md R25). -/
theorem step_flag_changes {s t : State} (h : step s = .next t) (hF : t.F ≠ s.F) :
    ∃ i, executes s = some i ∧ (Instr.isComparison i = true ∨ IsConditional i ∧ s.F = true ∧ t.F = false) := by
  obtain ⟨-, ⟨-, -, rfl⟩ | ⟨-, -, rfl⟩ | ⟨r, i, -, -, hi, he⟩⟩ := step_cases h
  · exact absurd rfl hF
  · exact absurd rfl hF
  · exact ⟨i, hi, exec_flag_changes he hF⟩

theorem not_writesOnly_of_conditional {i : Instr} (hi : IsConditional i) (q : Reg) : ¬ WritesOnly i q := by
  cases i with
  | jmpif | skipins => exact id
  | _ => exact hi.elim

/-- Settles O13: the writers by what a step can do to the flag, the readers by running the instruction with either flag. -/
theorem flagWritersAndReaders : Obligations.FlagWritersAndReaders := by
  refine ⟨fun s t h hF => step_flag_changes h hF, ⟨smaller_gives, greater_gives, equ_gives⟩, ?clears,
    fun i s t b hi h => exec_withFlag b hi h, ?keepsRegisters⟩
  case clears =>
    intro i s ops hi hv _
    obtain ⟨t, he, hc⟩ := exec_of_validate_ok hv
    exact ⟨t, he, hc.flag_of_conditional hi⟩
  case keepsRegisters =>
    intro i s t hi h
    exact RegFile.ext_get fun q => exec_get_of_not_writesOnly h (not_writesOnly_of_conditional hi q)

/-- Settles O14, by induction on the run: a step from a false flag to a true one would execute a comparison. -/
theorem flagStaysFalseUntilComparison : Obligations.FlagStaysFalseUntilComparison := by
  unfold Obligations.FlagStaysFalseUntilComparison
  intro s t hs hrun
  induction hrun with
  | start => exact hs
  | @snoc t u _ hno hstep ht =>
    by_contra hu
    obtain ⟨i, hi, hcmp | ⟨-, htrue, -⟩⟩ := step_flag_changes hstep (fun e => hu (e.trans ht))
    · simp [hno i hi] at hcmp
    · simp [ht] at htrue

end Sys2Proof
end

section
/-! The data memory as data: a canonical list is its head and a canonical tail, and its cells determine it (20_memory.md R50, log entry 1). -/

namespace Sys2Proof.Machine

theorem Memory.wfFrom_cons {lo a : Nat} {v : Word} {m : Memory} : Memory.wfFrom lo ((a, v) :: m) = true ↔
    lo ≤ a ∧ a < 65536 ∧ v ≠ Memory.unlisted ∧ Memory.wfFrom (a + 1) m = true := by
  simp [Memory.wfFrom, and_assoc]

@[simp] theorem Memory.cell_cons_self (a : Nat) (v : Word) (m : Memory) : Memory.cell ((a, v) :: m) a = v :=
  if_pos rfl

theorem Memory.cell_cons_of_ne {a b : Nat} (h : b ≠ a) (v : Word) (m : Memory) :
    Memory.cell ((a, v) :: m) b = Memory.cell m b :=
  if_neg h

/-- A cell other than the unlisted value is at or above the bound of a canonical list. -/
theorem Memory.le_of_cell_ne_unlisted {m : Memory} {lo a : Nat} (h : Memory.wfFrom lo m = true)
    (ha : Memory.cell m a ≠ Memory.unlisted) : lo ≤ a := by
  by_contra hlt
  exact ha (Memory.cell_below h (Nat.lt_of_not_le hlt))

/-- Of two canonical lists with equal cells, the first starts no later: the head of the second is a listed cell of both. -/
theorem Memory.head_le_head {a b : Nat} {v w : Word} {m m' : Memory} {lo lo' : Nat}
    (h : Memory.wfFrom lo ((a, v) :: m) = true) (h' : Memory.wfFrom lo' ((b, w) :: m') = true)
    (hcells : ∀ c < 65536, Memory.cell ((a, v) :: m) c = Memory.cell ((b, w) :: m') c) : a ≤ b := by
  obtain ⟨-, ha, hv, hm⟩ := Memory.wfFrom_cons.mp h
  obtain ⟨-, hb, hw, -⟩ := Memory.wfFrom_cons.mp h'
  have hcanon : Memory.wfFrom a ((a, v) :: m) = true := Memory.wfFrom_cons.mpr ⟨le_rfl, ha, hv, hm⟩
  refine Memory.le_of_cell_ne_unlisted hcanon ?_
  rwa [hcells b hb, Memory.cell_cons_self]

/-- The tails of canonical lists with the same head address agree wherever the lists do: at that address both tails are unlisted. -/
theorem Memory.tail_cells {a c : Nat} {v w : Word} {m m' : Memory} (hm : Memory.wfFrom (a + 1) m = true)
    (hm' : Memory.wfFrom (a + 1) m' = true)
    (hc : Memory.cell ((a, v) :: m) c = Memory.cell ((a, w) :: m') c) : Memory.cell m c = Memory.cell m' c := by
  by_cases hca : c = a
  · subst hca
    rw [Memory.cell_below hm (Nat.lt_succ_self c), Memory.cell_below hm' (Nat.lt_succ_self c)]
  · rwa [Memory.cell_cons_of_ne hca, Memory.cell_cons_of_ne hca] at hc

/-- Canonical lists with equal cells are equal, by induction along both: the heads are the least listed addresses. -/
theorem Memory.eq_of_cells {m m' : Memory} {lo lo' : Nat} (h : Memory.wfFrom lo m = true)
    (h' : Memory.wfFrom lo' m' = true) (hcells : ∀ c < 65536, Memory.cell m c = Memory.cell m' c) : m = m' := by
  induction m generalizing m' lo lo' with
  | nil =>
    cases m' with
    | nil => rfl
    | cons e m' =>
      obtain ⟨-, hb, hw, -⟩ := Memory.wfFrom_cons.mp h'
      exact absurd (by simpa [Memory.cell] using (hcells e.1 hb).symm) hw
  | cons e m ih =>
    obtain ⟨a, v⟩ := e
    obtain ⟨-, ha, hv, hm⟩ := Memory.wfFrom_cons.mp h
    cases m' with
    | nil => exact absurd (by simpa [Memory.cell] using hcells a ha) hv
    | cons e' m' =>
      obtain ⟨b, w⟩ := e'
      obtain rfl : a = b :=
        le_antisymm (Memory.head_le_head h h' hcells) (Memory.head_le_head h' h fun c hc => (hcells c hc).symm)
      obtain ⟨-, -, -, hm'⟩ := Memory.wfFrom_cons.mp h'
      obtain rfl : v = w := by simpa using hcells a ha
      rw [ih hm hm' fun c hc => Memory.tail_cells hm hm' (hcells c hc)]

end Sys2Proof.Machine
end

section
/-! What an instruction, a step and a run do to the data memory and the program (20_memory.md R53, R61, R64). -/

namespace Sys2Proof.Machine

theorem except_map_eq_error {ε α β : Type} {f : α → β} {x : Except ε α} {e : ε} :
    x.map f = .error e ↔ x = .error e := by
  cases x <;> simp [Except.map]

/-- The instruction is a `save` whose operand resolves to the value. -/
def Saves (i : Instr) (s : State) (v : Word) : Prop := ∃ a b, i = .save a b ∧ operandsV s a b = .ok v

/-- What an instruction makes of the data memory: a `save` that validates stores at the effective address, and nothing else writes. -/
theorem exec_mem_cases {i : Instr} {s t : State} (h : exec i s = .next t) :
    (∃ v, Saves i s v ∧ t.mem = (s.memWrite s.effectiveAddress v).mem) ∨ (∀ v, ¬ Saves i s v) ∧ t.mem = s.mem := by
  rcases executesAsValidated i s with ⟨ops, t', -, he, hc⟩ | ⟨k, hv, he⟩
  · obtain rfl : t' = t := Host.Outcome.next.inj (he.symm.trans h)
    cases hc with
    | save ho => exact .inl ⟨_, ⟨_, _, rfl, ho⟩, rfl⟩
    | jmpif | skipins => exact .inr ⟨by simp [Saves], State.consumeFlag_mem s _⟩
    | _ => exact .inr ⟨by simp [Saves], rfl⟩
  · obtain rfl : t = s.raise k s.line := Host.Outcome.next.inj (h.symm.trans he)
    refine .inr ⟨?_, rfl⟩
    rintro v ⟨a, b, rfl, ho⟩
    have hbad : operandsV s a b = .error k := except_map_eq_error.mp ((validate_V s rfl).symm.trans hv)
    simp [ho] at hbad

theorem saveOf_of_saves {i : Instr} {s : State} {v : Word} (hi : executes s = some i) (hs : Saves i s v) :
    saveOf s = [(s.effectiveAddress, v)] := by
  obtain ⟨a, b, rfl, ho⟩ := hs
  simp [saveOf, hi, ho]

theorem saveOf_of_not_saves {i : Instr} {s : State} (hi : executes s = some i) (hs : ∀ v, ¬ Saves i s v) :
    saveOf s = [] := by
  cases i with
  | save a b =>
    cases ho : operandsV s a b with
    | ok v => exact absurd ⟨a, b, rfl, ho⟩ (hs v)
    | error k => simp [saveOf, hi, ho]
  | _ => simp [saveOf, hi]

theorem saveOf_of_executes_none {s : State} (h : executes s = none) : saveOf s = [] := by
  simp [saveOf, h]

/-- What a step makes of the data memory: it performs the save that `saveOf` lists, if any. -/
theorem step_mem_cases {s t : State} (h : step s = .next t) :
    (∃ v, saveOf s = [(s.effectiveAddress, v)] ∧ t.mem = (s.memWrite s.effectiveAddress v).mem) ∨
      saveOf s = [] ∧ t.mem = s.mem := by
  obtain ⟨-, ⟨-, hn, rfl⟩ | ⟨-, hn, rfl⟩ | ⟨r, i, -, -, hi, he⟩⟩ := step_cases h
  · exact .inr ⟨saveOf_of_executes_none hn, rfl⟩
  · exact .inr ⟨saveOf_of_executes_none hn, rfl⟩
  · rcases exec_mem_cases he with ⟨v, hs, hm⟩ | ⟨hs, hm⟩
    · exact .inl ⟨v, saveOf_of_saves hi hs, hm⟩
    · exact .inr ⟨saveOf_of_not_saves hi hs, hm⟩

/-- Reading memory depends on the memory alone. -/
theorem State.memRead_congr {s t : State} (h : t.mem = s.mem) (a : Word) : t.memRead a = s.memRead a := by
  rw [State.memRead, State.memRead, h]

theorem step_keeps_mem_wf {s t : State} (h : step s = .next t) (hs : Memory.wf s.mem = true) :
    Memory.wf t.mem = true := by
  rcases step_mem_cases h with ⟨v, -, hm⟩ | ⟨-, hm⟩
  · rw [hm]
    exact State.memWrite_wf hs _ v
  · rwa [hm]

/-- Every cell after a step: the value the step saved to it, or what it held. -/
theorem step_memRead {s t : State} (h : step s = .next t) (hs : Memory.wf s.mem = true) (a : Word) :
    t.memRead a = ((saveOf s).lookup a).getD (s.memRead a) := by
  rcases step_mem_cases h with ⟨v, hsave, hm⟩ | ⟨hsave, hm⟩
  · rw [State.memRead_congr hm, State.memRead_memWrite hs, hsave, State.effectiveAddress_eq]
    by_cases ha : a = s.x.ptr
    · simp [ha]
    · simp [List.lookup_cons, beq_eq_false_iff_ne.mpr ha, ha]
  · rw [State.memRead_congr hm, hsave]
    rfl

/-- No step writes the instruction memory (20_memory.md R64). -/
theorem step_IM {s t : State} (h : step s = .next t) : t.IM = s.IM := by
  obtain ⟨-, ⟨-, -, rfl⟩ | ⟨-, -, rfl⟩ | ⟨r, i, -, -, -, he⟩⟩ := step_cases h
  · rfl
  · rfl
  · rcases exec_cases he with ⟨k, rfl⟩ | ⟨-, hIM⟩
    · rfl
    · exact hIM

/-! ## Runs -/

/-- What holds at the start of a run and is kept by every step holds of every state reached. -/
theorem RunFrom.invariant {P : State → Prop} {s t : State} (hrun : RunFrom s t) (hs : P s)
    (hstep : ∀ {t u}, step t = .next u → P t → P u) : P t := by
  induction hrun with
  | start => exact hs
  | snoc _ h ih => exact hstep h ih

theorem RunSaves.runFrom {s t : State} {log : List (Word × Word)} (h : RunSaves s log t) : RunFrom s t := by
  induction h with
  | start => exact .start
  | snoc _ h ih => exact .snoc ih h

/-- Every cell after a run: the latest value saved to it, or what it held at the start (20_memory.md R61). -/
theorem RunSaves.memRead {s t : State} {log : List (Word × Word)} (hrun : RunSaves s log t)
    (hs : Memory.wf s.mem = true) (a : Word) : t.memRead a = (log.lookup a).getD (s.memRead a) := by
  induction hrun with
  | start => rfl
  | snoc hrun h ih =>
    rw [step_memRead h (hrun.runFrom.invariant hs step_keeps_mem_wf), ih,
      List.lookup_append, Option.getD_or]

/-! ## The load phase and `load` -/

theorem loadFrom_mem (n : Nat) (lines : List Line) (s : State) : (loadFrom n lines s).mem = s.mem := by
  induction lines generalizing n s with
  | nil => rfl
  | cons l ls ih =>
    rw [loadFrom]
    cases decodeLine l with
    | error k => rfl
    | ok r => exact ih _ _

/-- Every program, well formed or not, starts with the memory at reset (10_state.md R48). -/
@[simp] theorem boot_mem (lines : List Line) : (boot lines).mem = [] := loadFrom_mem _ _ _

/-- `load` of a register's own name completes, with the cell at the old `ptr` (42_memory_ops.md R131). -/
theorem exec_load (s : State) (r : Reg) :
    exec (.load (some (regName r)) none) s = .next (s.setReg r (s.memRead s.x.ptr)).advance := by
  have ho : operandsR (some (regName r)) none = .ok r := operandsR_ok.mpr ⟨_, rfl, rfl, resolveReg_eq_ok.mpr rfl⟩
  rw [exec, execLoad, ho]
  rfl

end Sys2Proof.Machine
end

section
/-! The kinds a validation can fail with, and the invariant's clause on the status (30_encoding.md R86, 60_exceptions.md R200, R203). -/

namespace Sys2Proof.Machine

/-- The kinds raised by a failed validation; UnknownRegister is not among them (60_exceptions.md R203). -/
def IsValidationKind : FaultKind → Prop
  | .arityError | .operandTypeError | .operandRangeError | .jumpOutOfRange => True
  | _ => False

theorem resolveReg_error_kind {t : Token} {k : FaultKind} (h : resolveReg t = .error k) : IsValidationKind k := by
  unfold resolveReg at h
  cases hr : regOfToken t with
  | some r => simp [hr] at h
  | none =>
    obtain rfl : FaultKind.operandTypeError = k := by simpa [hr] using h
    trivial

theorem resolveVal_error_kind {s : State} {t : Token} {k : FaultKind} (h : resolveVal s t = .error k) :
    IsValidationKind k := by
  unfold resolveVal at h
  cases hr : regOfToken t with
  | some r => simp [hr] at h
  | none =>
    cases hn : numeralValue t with
    | none =>
      obtain rfl : FaultKind.operandTypeError = k := by simpa [hr, hn] using h
      trivial
    | some n =>
      by_cases hle : n ≤ 65535
      · simp [hr, hn, hle] at h
      · obtain rfl : FaultKind.operandRangeError = k := by simpa [hr, hn, hle] using h
        trivial

theorem resolveLine_error_kind {t : Token} {k : FaultKind} (h : resolveLine t = .error k) : IsValidationKind k := by
  unfold resolveLine at h
  cases hn : numeralValue t with
  | none =>
    obtain rfl : FaultKind.operandTypeError = k := by simpa [hn] using h
    trivial
  | some n =>
    by_cases hz : n = 0
    · obtain rfl : FaultKind.jumpOutOfRange = k := by simpa [hn, hz] using h
      trivial
    · simp [hn, hz] at h

theorem resolveSlot_error_kind {s : State} {c : OperandClass} {t : Token} {k : FaultKind}
    (h : resolveSlot s c t = .error k) : IsValidationKind k := by
  cases c with
  | R => exact resolveReg_error_kind (except_map_eq_error.mp h)
  | V => exact resolveVal_error_kind (except_map_eq_error.mp h)
  | L => exact resolveLine_error_kind (except_map_eq_error.mp h)

theorem resolveSlots_error_kind {s : State} {cs : List OperandClass} {ts : List (Option Token)} {k : FaultKind}
    (h : resolveSlots s cs ts = .error k) : IsValidationKind k := by
  induction cs generalizing ts with
  | nil => simp [resolveSlots] at h
  | cons c cs ih =>
    match ts with
    | [] | none :: _ =>
      obtain rfl : FaultKind.arityError = k := by simpa [resolveSlots] using h
      trivial
    | some t :: ts =>
      cases ho : resolveSlot s c t with
      | error k' =>
        obtain rfl : k' = k := by simpa [resolveSlots, ho] using h
        exact resolveSlot_error_kind ho
      | ok o =>
        cases hos : resolveSlots s cs ts with
        | error k' =>
          obtain rfl : k' = k := by simpa [resolveSlots, ho, hos] using h
          exact ih hos
        | ok os => simp [resolveSlots, ho, hos] at h

theorem validate_error_kind {i : Instr} {s : State} {k : FaultKind} (h : validate i s = .error k) :
    IsValidationKind k := by
  unfold validate at h
  split at h
  · exact resolveSlots_error_kind h
  · obtain rfl : FaultKind.arityError = k := by simpa using h
    trivial

/-- A validation fault recorded for an instruction of the program agrees with the state. -/
theorem faultAgrees_of_validationKind {s : State} {k : FaultKind} (hk : IsValidationKind k)
    (hpc : s.pc < s.IM.length) : faultAgrees s k (s.pc + 1) := by
  cases k with
  | arityError | operandTypeError | operandRangeError | jumpOutOfRange => exact ⟨hpc, rfl⟩
  | _ => exact hk.elim

theorem State.statusAgrees_of_running {s : State} (h : s.status = .running) : s.statusAgrees := by
  simp [State.statusAgrees, h]

/-- An instruction of the program leaves a running machine's status in agreement: kept, or the fault of its validation. -/
theorem exec_statusAgrees {i : Instr} {s t : State} (h : exec i s = .next t) (hs : s.status = .running)
    (hpc : s.pc < s.IM.length) : t.statusAgrees := by
  rcases executesAsValidated i s with ⟨ops, t', -, he, hc⟩ | ⟨k, hv, he⟩
  · obtain rfl : t' = t := Host.Outcome.next.inj (he.symm.trans h)
    exact State.statusAgrees_of_running (hc.status_eq.trans hs)
  · obtain rfl : t = s.raise k s.line := Host.Outcome.next.inj (h.symm.trans he)
    exact faultAgrees_of_validationKind (validate_error_kind hv) hpc

theorem step_statusAgrees {s t : State} (h : step s = .next t) : t.statusAgrees := by
  obtain ⟨hs, ⟨hpc, -, rfl⟩ | ⟨hpc, -, rfl⟩ | ⟨r, i, hr, -, -, he⟩⟩ := step_cases h
  · exact hpc
  · exact ⟨hpc, rfl⟩
  · exact exec_statusAgrees he hs (List.getElem?_eq_some_iff.mp hr).1

end Sys2Proof.Machine
end

section
/-! Settled here: the invariant of every step, and the data memory over steps and runs (20_memory.md). -/

namespace Sys2Proof

open Sys2Proof.Machine Sys2Proof.Claims

/-- Settles O8: a store keeps the memory canonical, the program is not written, and a step leaves a status that agrees. -/
theorem stepKeepsInvariant : Obligations.StepKeepsInvariant := by
  unfold Obligations.StepKeepsInvariant
  intro s t hs h
  exact { memory := step_keeps_mem_wf h hs.memory, program := step_IM h ▸ hs.program, status := step_statusAgrees h }

/-- Settles O7: no step writes the program, so no run does. -/
theorem programIsNeverWritten : Obligations.ProgramIsNeverWritten :=
  ⟨fun _ _ h => step_IM h, fun lines _ hrun =>
    hrun.invariant (P := fun t => t.IM = (boot lines).IM) rfl fun h ht => (step_IM h).trans ht⟩

/-- Settles O45: the addresses of the cells are those below 65,536. -/
theorem canonicalMemoryIsUnique : Obligations.CanonicalMemoryIsUnique := by
  unfold Obligations.CanonicalMemoryIsUnique
  intro m m' h h' hcells
  exact Memory.eq_of_cells h h' fun c hc => by simpa [Nat.mod_eq_of_lt hc] using hcells (BitVec.ofNat 16 c)

/-- Settles O47: the cells after a run, and `load` reading the cell at `ptr`, which holds 0 in every boot state. -/
theorem loadSeesLatestSave : Obligations.LoadSeesLatestSave := by
  refine ⟨fun s log t hs hrun a => hrun.memRead hs a, fun lines log t r hrun => ⟨_, exec_load t r, ?_⟩⟩
  have hwf : Memory.wf (boot lines).mem = true := by rw [boot_mem]; rfl
  have hzero : (boot lines).memRead t.x.ptr = 0 := by rw [State.memRead, boot_mem]; rfl
  simp [hrun.memRead hwf, hzero]

/-- The writers of `ptr` in the table of 10_state.md R23. -/
theorem writesOnly_ptr {i : Instr} (h : WritesOnly i .ptr) :
    ∃ b, i = .set (some (regName .ptr)) b ∨ i = .load (some (regName .ptr)) b ∨
      i = .inc (some (regName .ptr)) b ∨ i = .dec (some (regName .ptr)) b := by
  cases i with
  | set a b | load a b | inc a b | dec a b =>
    obtain rfl : a = some (regName .ptr) := h
    exact ⟨b, by simp⟩
  | add | sub | mul | div => exact nomatch h
  | _ => exact h.elim

/-- Settles O48: cells by what an instruction makes of the memory, `load` by its one cell read, `ptr` by the table of writers. -/
theorem ptrIsTheOnlyAddress : Obligations.PtrIsTheOnlyAddress := by
  refine ⟨?saveAtPtr, ?loadAtPtr, ?onlySave, ?ptrWriters⟩
  case saveAtPtr =>
    intro a b s t ea hs h hne
    rcases exec_mem_cases h with ⟨v, -, hm⟩ | ⟨-, hm⟩
    · by_contra hea
      refine hne ?_
      rw [State.memRead_congr hm, State.memRead_memWrite hs]
      exact if_neg hea
    · exact absurd (State.memRead_congr hm ea) hne
  case loadAtPtr =>
    intro r s m hcell
    refine ⟨_, _, exec_load s r, exec_load { s with mem := m } r, ?_⟩
    exact congrArg (s.x.put r) hcell
  case onlySave =>
    intro i s t ea h hne
    rcases exec_mem_cases h with ⟨v, ⟨a, b, hi, -⟩, -⟩ | ⟨-, hm⟩
    · exact ⟨a, b, hi⟩
    · exact absurd (State.memRead_congr hm ea) hne
  case ptrWriters =>
    intro i s t h hne
    exact writesOnly_ptr (registerWritersTable i s t .ptr h hne)

end Sys2Proof
end

section
/-! The decoder by its pieces (30_encoding.md R72 to R79, R87): what the mnemonic table, a slot, a line and a record answer, each said once. -/

namespace Sys2Proof

open Sys2Proof.Claims

/-! ## The mnemonic table -/

/-- The statements' own table has the model's mnemonics and tags (30_encoding.md R73). -/
theorem mnemonicTable_eq : mnemonicTable = mnemonicRows.map fun row => (row.1, row.2.1) := rfl

theorem mem_table_of_mem_rows {row : Token × BitVec 5 × (Option Token → Option Token → Instr)}
    (hrow : row ∈ mnemonicRows) : (row.1, row.2.1) ∈ mnemonicTable :=
  mnemonicTable_eq ▸ List.mem_map_of_mem hrow

theorem tagOfToken_of_mem_table : ∀ row ∈ mnemonicTable, tagOfToken row.1 = some row.2 := by decide

theorem spaceChar_not_mem_of_mem_table : ∀ row ∈ mnemonicTable, spaceChar ∉ row.1 := by decide

/-- A row's operation is encoded with the row's tag and the slots as they are. -/
theorem encode_of_mem_rows : ∀ row ∈ mnemonicRows, ∀ a b, encode (row.2.2 a b) = { tag := row.2.1, s1 := a, s2 := b } := by
  simp [mnemonicRows, encode, Instr.tag, Instr.slot1, Instr.slot2]

theorem spaceChar_not_mem_mnemonicOfTag (i : Instr) : spaceChar ∉ mnemonicOfTag i.tag := by
  cases i <;> (simp only [Instr.tag]; decide)

theorem tagOfToken_eq_none {t : Token} : tagOfToken t = none ↔ t ≠ [] ∧ t ∉ mnemonicRows.map Prod.fst := by
  have hkeys : mnemonicRows.map Prod.fst = mnemonicTable.map Prod.fst := rfl
  have hlookup : mnemonicTable.lookup t = none ↔ t ∉ mnemonicTable.map Prod.fst := by
    rw [List.lookup_eq_none_iff, List.mem_map]
    exact ⟨fun h ⟨row, hrow, ht⟩ => bne_iff_ne.mp (h row hrow) ht.symm,
      fun h row hrow => bne_iff_ne.mpr fun ht => h ⟨row, hrow, ht.symm⟩⟩
  unfold tagOfToken
  split_ifs with ht
  · simp [ht]
  · rw [hkeys, hlookup]
    exact (and_iff_right ht).symm

theorem tagOfToken_le {t : Token} {tag : BitVec 5} (h : tagOfToken t = some tag) : tag.toNat ≤ 18 := by
  have htable : ∀ row ∈ mnemonicTable, row.2.toNat ≤ 18 := by decide
  unfold tagOfToken at h
  split_ifs at h with ht
  · obtain rfl : 18 = tag := by simpa using h
    decide
  · obtain ⟨before, after, hrows, -⟩ := List.lookup_eq_some_iff.mp h
    exact htable (t, tag) (by simp [hrows])

/-! ## Slots -/

theorem slotOfToken_eq_some {o : Option Token} {t : Token} : slotOfToken o = some t ↔ o = some t ∧ t ≠ [] := by
  match o with
  | none | some [] => simp +contextual [slotOfToken, eq_comm]
  | some (c :: cs) =>
    simp only [slotOfToken, Option.some.injEq]
    exact ⟨fun h => ⟨h, h ▸ List.cons_ne_nil c cs⟩, And.left⟩

@[simp] theorem slotOfToken_none : slotOfToken none = none := rfl

@[simp] theorem slotOfToken_empty : slotOfToken (some []) = none := rfl

theorem slotWellFormed_some {t : Token} : slotWellFormed (some t) = true ↔ t ≠ [] ∧ spaceChar ∉ t := by
  simp [slotWellFormed]

/-! ## Lines -/

/-- The first piece of a line is its text up to the first space. -/
theorem headD_splitSpaces (l : Line) : (splitSpaces l).headD [] = l.takeWhile (· != spaceChar) := by
  induction l with
  | nil => rfl
  | cons c cs ih =>
    by_cases hc : c = spaceChar
    · subst hc
      simp
    · obtain ⟨t, ts, h⟩ := List.exists_cons_of_ne_nil (splitSpaces_ne_nil cs)
      simpa [splitSpaces_cons_of_ne hc, h, hc] using ih

theorem decodeLine_of_three_spaces {l : Line} (h : 3 ≤ l.count spaceChar) : decodeLine l = .error .malformedLine := by
  have hlen : 3 < (splitSpaces l).length := by rw [length_splitSpaces]; omega
  simp only [decodeLine, if_pos hlen]

/-- A line of at most three pieces is decided by its first (30_encoding.md R75, R76). -/
theorem decodeLine_of_two_spaces {l : Line} (h : l.count spaceChar ≤ 2) :
    decodeLine l = (tagOfToken (l.takeWhile (· != spaceChar))).elim (.error .unknownMnemonic) fun tag =>
      .ok { tag := tag, s1 := slotOfToken (splitSpaces l)[1]?, s2 := slotOfToken (splitSpaces l)[2]? } := by
  have hlen : ¬ 3 < (splitSpaces l).length := by rw [length_splitSpaces]; omega
  simp only [decodeLine, if_neg hlen, headD_splitSpaces]
  cases tagOfToken (l.takeWhile (· != spaceChar)) <;> rfl

theorem decodeLine_eq_ok {l : Line} {r : Record} : decodeLine l = .ok r ↔
    l.count spaceChar ≤ 2 ∧ tagOfToken (l.takeWhile (· != spaceChar)) = some r.tag ∧
      slotOfToken (splitSpaces l)[1]? = r.s1 ∧ slotOfToken (splitSpaces l)[2]? = r.s2 := by
  obtain ⟨tag, s1, s2⟩ := r
  by_cases h : l.count spaceChar ≤ 2
  · rw [decodeLine_of_two_spaces h]
    cases tagOfToken (l.takeWhile (· != spaceChar)) <;> simp [h]
  · simp [decodeLine_of_three_spaces (Nat.lt_of_not_le h), h]

theorem decodeLine_eq_error {l : Line} {k : FaultKind} : decodeLine l = .error k ↔
    (3 ≤ l.count spaceChar ∧ k = .malformedLine) ∨
      (l.count spaceChar ≤ 2 ∧ tagOfToken (l.takeWhile (· != spaceChar)) = none ∧ k = .unknownMnemonic) := by
  by_cases h : l.count spaceChar ≤ 2
  · rw [decodeLine_of_two_spaces h]
    cases tagOfToken (l.takeWhile (· != spaceChar)) <;> simp [h, Nat.not_le.mpr (Nat.lt_succ_of_le h), eq_comm]
  · have hge : 3 ≤ l.count spaceChar := Nat.lt_of_not_le h
    simp [decodeLine_of_three_spaces hge, h, hge, eq_comm]

/-- A line of at most three pieces whose first selects a tag decodes to that tag and the slots of the other two. -/
theorem decodeLine_of_splitSpaces {l : Line} {m : Token} {ts : List Token} {tag : BitVec 5}
    (hl : splitSpaces l = m :: ts) (hts : ts.length ≤ 2) (hm : tagOfToken m = some tag) :
    decodeLine l = .ok { tag := tag, s1 := slotOfToken ts[0]?, s2 := slotOfToken ts[1]? } := by
  have hlen : ¬ 3 < (m :: ts).length := by rw [List.length_cons]; omega
  simp only [decodeLine, hl, if_neg hlen, List.headD_cons, hm, List.getElem?_cons_succ]

/-- The text of well-formed slots after a first token is cut into the same slots again (30_encoding.md R76, R79). -/
theorem decodeLine_slotText {m : Token} {tag : BitVec 5} {a b : Option Token} (hm : tagOfToken m = some tag)
    (hspace : spaceChar ∉ m) (ha : slotWellFormed a = true) (hb : slotWellFormed b = true) :
    decodeLine (m ++ slotText a b) = .ok { tag := tag, s1 := a, s2 := b } := by
  have filled {t : Token} (ht : t ≠ []) : slotOfToken (some t) = some t := slotOfToken_eq_some.mpr ⟨rfl, ht⟩
  cases a with
  | none =>
    cases b with
    | none =>
      have hl : splitSpaces (m ++ slotText none none) = [m] := by simp [slotText, splitSpaces_piece hspace]
      exact decodeLine_of_splitSpaces hl (by simp) hm
    | some u =>
      obtain ⟨hu, hu'⟩ := slotWellFormed_some.mp hb
      have hl : splitSpaces (m ++ slotText none (some u)) = [m, [], u] := by
        simp [slotText, splitSpaces_cut hspace, splitSpaces_piece hu']
      simpa [filled hu] using decodeLine_of_splitSpaces hl (by simp) hm
  | some t =>
    obtain ⟨ht, ht'⟩ := slotWellFormed_some.mp ha
    cases b with
    | none =>
      have hl : splitSpaces (m ++ slotText (some t) none) = [m, t] := by
        simp [slotText, splitSpaces_cut hspace, splitSpaces_piece ht']
      simpa [filled ht] using decodeLine_of_splitSpaces hl (by simp) hm
    | some u =>
      obtain ⟨hu, hu'⟩ := slotWellFormed_some.mp hb
      have hl : splitSpaces (m ++ slotText (some t) (some u)) = [m, t, u] := by
        simp [slotText, splitSpaces_cut hspace, splitSpaces_cut ht', splitSpaces_piece hu']
      simpa [filled ht, filled hu] using decodeLine_of_splitSpaces hl (by simp) hm

theorem decodeLine_wellFormed {l : Line} {r : Record} (h : decodeLine l = .ok r) : r.wellFormed = true := by
  obtain ⟨-, htag, h1, h2⟩ := decodeLine_eq_ok.mp h
  have hslot (n : Nat) : slotWellFormed (slotOfToken (splitSpaces l)[n]?) = true :=
    slotOfToken_wellFormed fun t ht => spaceChar_not_mem_of_mem_splitSpaces l t (List.mem_of_getElem? ht)
  simp [Record.wellFormed, tagOfToken_le htag, ← h1, ← h2, hslot]

/-! ## Records -/

@[simp] theorem decodeRecord_encode (i : Instr) : decodeRecord (encode i) = .ok i := by
  cases i <;> rfl

theorem encode_eq_of_tag {r : Record} {i : Instr} (htag : r.tag.toNat = i.tag.toNat) (h1 : i.slot1 = r.s1)
    (h2 : i.slot2 = r.s2) : encode i = r := by
  rw [encode, ← BitVec.eq_of_toNat_eq htag, h1, h2]

/-- A record is the encoding of the instruction it decodes to, or its tag is reserved (30_encoding.md R73, R87). -/
theorem decodeRecord_cases (r : Record) : (∃ i, decodeRecord r = .ok i ∧ encode i = r) ∨
    (18 < r.tag.toNat ∧ decodeRecord r = .error (.reservedTag r.tag)) := by
  unfold decodeRecord
  split
  case h_20 =>
    refine .inr ⟨?_, rfl⟩
    simp only [imp_false] at *
    omega
  all_goals exact .inl ⟨_, rfl, encode_eq_of_tag ‹_› rfl rfl⟩

theorem decodeRecord_eq_ok {r : Record} {i : Instr} : decodeRecord r = .ok i ↔ encode i = r := by
  constructor
  · intro h
    rcases decodeRecord_cases r with ⟨j, hj, he⟩ | ⟨-, he⟩
    · obtain rfl : j = i := Except.ok.inj (hj.symm.trans h)
      exact he
    · simp [he] at h
  · rintro rfl
    exact decodeRecord_encode i

theorem decodeRecord_of_mem_rows {row : Token × BitVec 5 × (Option Token → Option Token → Instr)}
    (hrow : row ∈ mnemonicRows) (a b : Option Token) :
    decodeRecord { tag := row.2.1, s1 := a, s2 := b } = .ok (row.2.2 a b) :=
  decodeRecord_eq_ok.mpr (encode_of_mem_rows row hrow a b)

theorem Instr.tag_le (i : Instr) : i.tag.toNat ≤ 18 := by
  cases i <;> (simp only [Instr.tag]; decide)

/-- A tag above 18 is reserved, whatever the slots hold (30_encoding.md R87). -/
theorem decodeRecord_of_reserved {r : Record} (h : 18 < r.tag.toNat) :
    decodeRecord r = .error (.reservedTag r.tag) := by
  rcases decodeRecord_cases r with ⟨i, -, rfl⟩ | ⟨-, he⟩
  · exact absurd i.tag_le (Nat.not_le.mpr h)
  · exact he

/-- A record the decoder can write is the encoding of a well-formed instruction. -/
theorem Record.exists_encode_of_wellFormed {r : Record} (h : r.wellFormed = true) :
    ∃ i, i.wellFormed = true ∧ encode i = r := by
  simp only [Record.wellFormed, Bool.and_eq_true, decide_eq_true_eq] at h
  obtain ⟨⟨htag, h1⟩, h2⟩ := h
  rcases decodeRecord_cases r with ⟨i, -, rfl⟩ | ⟨hlt, -⟩
  · exact ⟨i, by simpa [Instr.wellFormed] using ⟨h1, h2⟩, rfl⟩
  · omega

/-- Every well-formed instruction's own line decodes to its record (30_encoding.md R79). -/
theorem decodeLine_encodeLine {i : Instr} (h : i.wellFormed = true) : decodeLine (encodeLine i) = .ok (encode i) := by
  obtain ⟨h1, h2⟩ : slotWellFormed i.slot1 = true ∧ slotWellFormed i.slot2 = true := by
    simpa [Instr.wellFormed] using h
  exact decodeLine_slotText (tagOfToken_mnemonic i) (spaceChar_not_mem_mnemonicOfTag i) h1 h2

end Sys2Proof
end

section
/-! Settled here: the encoding of lines and records, both ways (30_encoding.md sections 1 and 3). -/

namespace Sys2Proof

open Sys2Proof.Machine Sys2Proof.Claims

/-- Settles O56: the line by the pieces of its text, the record by its tag. -/
theorem lineEncodingRoundTrip : Obligations.LineEncodingRoundTrip :=
  fun i h => ⟨decodeLine_encodeLine h, decodeRecord_encode i⟩

/-- Settles O57: the record's decoding inverts the encoding exactly. -/
theorem recordEncodingIsExact : Obligations.RecordEncodingIsExact :=
  fun _ _ => decodeRecord_eq_ok

/-- Settles O5: the fetch finds the record, and the record has no instruction. -/
theorem reservedTagIsRefused : Obligations.ReservedTagIsRefused := by
  unfold Obligations.ReservedTagIsRefused
  intro s r hs hr htag
  simp [step, hs, fetch_record hr, decodeRecord_of_reserved htag]

/-- Settles O53: a line of at most three pieces decodes or has an unknown mnemonic. -/
theorem malformedIffThreeSpaces : Obligations.MalformedIffThreeSpaces := by
  unfold Obligations.MalformedIffThreeSpaces
  intro l
  simp [decodeLine_eq_error]

/-- Settles O54: the two ways a line fails, with the mnemonics read from the statements' table. -/
theorem unknownMnemonicIff : Obligations.UnknownMnemonicIff := by
  refine ⟨fun l => ?_, fun l k h => ?_⟩
  · rw [decodeLine_eq_error, tagOfToken_eq_none]
    simp
  · exact (decodeLine_eq_error.mp h).imp And.right fun h' => h'.2.2

/-- Settles O55: the slots and the tag by what a decoded line is, the instruction by the record's well-formedness. -/
theorem decodedLineIsAnInstruction : Obligations.DecodedLineIsAnInstruction := by
  unfold Obligations.DecodedLineIsAnInstruction
  intro l r h
  have hwf := decodeLine_wellFormed h
  obtain ⟨-, htag, h1, h2⟩ := decodeLine_eq_ok.mp h
  refine ⟨hwf, fun t => ?_, fun t => ?_, fun row hrow hl => ?_, ?_⟩
  · rw [← h1, slotOfToken_eq_some]
  · rw [← h2, slotOfToken_eq_some]
  · have hrt : r.tag = row.2.1 := by
      rw [hl, tagOfToken_of_mem_table _ (mem_table_of_mem_rows hrow)] at htag
      exact (Option.some.inj htag).symm
    refine ⟨hrt, ?_⟩
    rw [← decodeRecord_of_mem_rows hrow r.s1 r.s2, ← hrt]
  · obtain ⟨i, hi, rfl⟩ := Record.exists_encode_of_wellFormed hwf
    exact ⟨i, decodeRecord_encode i, hi, decodeLine_encodeLine hi⟩

/-- Settles O58: a mnemonic alone is the text of two absent slots after it; the four lines are evaluated. -/
theorem writtenOutLinesDecode : Obligations.WrittenOutLinesDecode := by
  refine ⟨fun row hrow => ⟨?_, decodeRecord_of_mem_rows hrow⟩, by decide, by decide, by decide, by decide⟩
  have hmem := mem_table_of_mem_rows hrow
  simpa [slotText] using decodeLine_slotText (a := none) (b := none) (tagOfToken_of_mem_table _ hmem)
    (spaceChar_not_mem_of_mem_table _ hmem) rfl rfl

end Sys2Proof
end

section
/-! Settled here: the load phase of every list of lines (30_encoding.md R70, R78). -/

namespace Sys2Proof

open Sys2Proof.Machine

/-- Lines that all decode are loaded first, and the lines after them from the state that leaves. -/
theorem loadFrom_append {good : List Line} (h : ∀ l ∈ good, ∃ r, decodeLine l = .ok r) (rest : List Line) (n : Nat)
    (s : State) : loadFrom n (good ++ rest) s = loadFrom (n + good.length) rest (loadFrom n good s) := by
  induction good generalizing n s with
  | nil => rfl
  | cons l ls ih =>
    obtain ⟨r, hr⟩ := h l List.mem_cons_self
    have hls := ih (fun l' hl' => h l' (List.mem_cons_of_mem l hl')) (n + 1)
    simp [loadFrom, hr, hls, Nat.add_right_comm n, Nat.add_assoc]

/-- The boot state of a program by its first failing line. -/
theorem boot_of_failing_line {good rest : List Line} {recs : List Record} {bad : Line} {k : FaultKind}
    (hgood : good.map decodeLine = recs.map Except.ok) (hbad : decodeLine bad = .error k) :
    boot (good ++ bad :: rest) = { State.reset with IM := recs }.raise k (good.length + 1) := by
  have hdec : ∀ l ∈ good, ∃ r, decodeLine l = .ok r := fun l hl => by
    have hmem : decodeLine l ∈ recs.map Except.ok := hgood ▸ List.mem_map_of_mem hl
    obtain ⟨r, -, hr⟩ := List.mem_map.mp hmem
    exact ⟨r, hr.symm⟩
  simp [boot, loadProgram, loadFrom_append hdec, loadFrom_of_decodes hgood, loadFrom, hbad, Nat.add_comm]

/-- Settles O51: the boot state is the reset state with the records before the line and the fault raised, which has no step. -/
theorem loadStopsAtFirstFailingLine : Obligations.LoadStopsAtFirstFailingLine := by
  unfold Obligations.LoadStopsAtFirstFailingLine
  intro good recs bad rest k hgood hbad
  rw [boot_of_failing_line hgood hbad]
  exact ⟨rfl, rfl, rfl, rfl, rfl, rfl, finalStatusHasNoStep _ (by simp)⟩

/-- The load phase from a state that meets the invariant at counter 0, its next line the one after those loaded. -/
theorem loadFrom_inv (lines : List Line) {s : State} (hs : s.Inv) (hrun : s.status = .running) (hpc : s.pc = 0) :
    (loadFrom (s.IM.length + 1) lines s).Inv := by
  induction lines generalizing s with
  | nil => exact hs
  | cons l ls ih =>
    cases hl : decodeLine l with
    | error k =>
      have hagrees : faultAgrees s k (s.IM.length + 1) := by
        rcases decodeLine_eq_error.mp hl with ⟨-, rfl⟩ | ⟨-, -, rfl⟩
        · exact ⟨hpc, rfl⟩
        · exact ⟨hpc, rfl⟩
      simp only [loadFrom, hl]
      exact { memory := hs.memory, program := hs.program, status := hagrees }
    | ok r =>
      have hloaded : State.Inv { s with IM := s.IM ++ [r] } :=
        { memory := hs.memory
          program := by
            intro q hq
            rcases List.mem_append.mp hq with hq | hq
            · exact hs.program q hq
            · exact List.mem_singleton.mp hq ▸ decodeLine_wellFormed hl
          status := State.statusAgrees_of_running hrun }
      simpa [loadFrom, hl] using ih hloaded hrun hpc

/-- Settles O10: the load phase starts at reset, which meets the invariant. -/
theorem bootMeetsInvariant : Obligations.BootMeetsInvariant :=
  fun lines => loadFrom_inv lines resetMeetsInvariant rfl rfl

end Sys2Proof
end

section
/-! Settled here: operand tokens (30_encoding.md R82, R83). -/

namespace Sys2Proof

open Sys2Proof.Machine Sys2Proof.Claims

/-- Settles O17: a token resolves to the register it names, register by register, and otherwise names none. -/
theorem registerTokens : Obligations.RegisterTokens := by
  refine ⟨fun t r => ?_, fun t k => ?_⟩
  · rw [resolveReg_eq_ok]
    cases r <;> simp [regName]
  · have hnone : regOfToken t = none ↔ NotRegister t := by
      simp [Option.eq_none_iff_forall_ne_some, regOfToken_eq_some, NotRegister]
    rw [← hnone, resolveReg]
    cases regOfToken t <;> simp [eq_comm]

/-- The digits of 30_encoding.md R83 are those between `0` and `9`. -/
theorem digitValue_eq_some {c : Char} {d : Nat} : digitValue c = some d ↔ ('0' ≤ c ∧ c ≤ '9') ∧ c.toNat - 48 = d := by
  have hrange : ('0' ≤ c ∧ c ≤ '9') ↔ (48 ≤ c.toNat ∧ c.toNat ≤ 57) := Iff.rfl
  rw [digitValue, hrange]
  split_ifs with h <;> simp [h]

/-- A run of digits read after the value `acc` gives its own value in base ten, with `acc` above its leading digit. -/
theorem numeralFrom_eq_some {t : Token} {acc n : Nat} : numeralFrom acc t = some n ↔
    (∀ c ∈ t, '0' ≤ c ∧ c ≤ '9') ∧
      n = Nat.ofDigits 10 (t.reverse.map fun c => c.toNat - 48) + 10 ^ t.length * acc := by
  induction t generalizing acc with
  | nil => simp [numeralFrom, eq_comm]
  | cons c cs ih =>
    cases hc : digitValue c with
    | none =>
      have hbad : ¬ ('0' ≤ c ∧ c ≤ '9') := fun h => by
        simp [digitValue_eq_some.mpr ⟨h, rfl⟩] at hc
      simp [numeralFrom, hc, hbad]
    | some d =>
      obtain ⟨hdigit, rfl⟩ := digitValue_eq_some.mp hc
      have hvalue : Nat.ofDigits 10 ((c :: cs).reverse.map fun c => c.toNat - 48) + 10 ^ (c :: cs).length * acc =
          Nat.ofDigits 10 (cs.reverse.map fun c => c.toNat - 48) + 10 ^ cs.length * (10 * acc + (c.toNat - 48)) := by
        simp only [List.reverse_cons, List.map_append, List.map_singleton, Nat.ofDigits_append,
          Nat.ofDigits_singleton, List.length_map, List.length_reverse, List.length_cons]
        ring
      rw [hvalue]
      simp [numeralFrom, hc, ih, hdigit]

/-- Settles O18: a numeral is a non-empty run of digits, read after the value 0. -/
theorem numeralTokens : Obligations.NumeralTokens := by
  unfold Obligations.NumeralTokens
  intro t n
  unfold numeralValue
  split_ifs with ht
  · simp [ht]
  · simp [ht, numeralFrom_eq_some]

end Sys2Proof
end

section
/-! The faults of an operand by its class, and of every operation with two operands (30_encoding.md R80 to R86). -/

namespace Sys2Proof.Machine

open Sys2Proof.Claims

theorem regOfToken_eq_none {t : Token} : regOfToken t = none ↔ NotRegister t := by
  simp [Option.eq_none_iff_forall_ne_some, regOfToken_eq_some, NotRegister]

theorem resolveVal_eq_error {s : State} {t : Token} {k : FaultKind} : resolveVal s t = .error k ↔ BadValue t k := by
  cases hr : regOfToken t with
  | some r =>
    obtain rfl := regOfToken_eq_some.mp hr
    simp [resolveVal, BadValue, NotRegister, numeralValue_regName]
  | none =>
    have hnot : NotRegister t := regOfToken_eq_none.mp hr
    cases hn : numeralValue t with
    | none => simp [resolveVal, BadValue, hr, hn, hnot, eq_comm]
    | some n =>
      by_cases hle : n ≤ 65535
      · simp [resolveVal, BadValue, hr, hn, hle]
      · simp [resolveVal, BadValue, hr, hn, hle, Nat.lt_of_not_le hle, eq_comm]

theorem resolveLine_eq_error {t : Token} {k : FaultKind} : resolveLine t = .error k ↔ BadLine t k := by
  cases hn : numeralValue t with
  | none => simp [resolveLine, BadLine, hn, eq_comm]
  | some n => by_cases hz : n = 0 <;> simp [resolveLine, BadLine, hn, hz, eq_comm]

/-- The fault conditions of the three operand classes, in one table. -/
def BadOperand : OperandClass → Token → FaultKind → Prop
  | .R => BadRegister
  | .V => BadValue
  | .L => BadLine

/-- An operand fails with a kind exactly when its class's fault condition gives that kind, in every state. -/
theorem resolveSlot_eq_error {s : State} {c : OperandClass} {t : Token} {k : FaultKind} :
    resolveSlot s c t = .error k ↔ BadOperand c t k := by
  cases c with
  | R => exact except_map_eq_error.trans (registerTokens.2 t k)
  | V => exact except_map_eq_error.trans resolveVal_eq_error
  | L => exact except_map_eq_error.trans resolveLine_eq_error

theorem exists_resolveSlot_eq_ok {c : OperandClass} {t : Token} (h : ∀ k, ¬ BadOperand c t k) (s : State) :
    ∃ o, resolveSlot s c t = .ok o := by
  cases ho : resolveSlot s c t with
  | ok o => exact ⟨o, rfl⟩
  | error k => exact absurd (resolveSlot_eq_error.mp ho) (h k)

/-- A failed validation is a fault on the instruction's own line. -/
theorem faults_of_validate_error {i : Instr} {s : State} {k : FaultKind} (h : validate i s = .error k) :
    Faults i s k :=
  exec_of_validate_error h

/-- Every operation with two operands faults by its classes: the arity first, then slot 1, then slot 2. -/
theorem twoSlotFaults {c d : OperandClass} {mk : Option Token → Option Token → Instr}
    (hclasses : ∀ a b, (mk a b).classes = [c, d]) (hslot1 : ∀ a b, (mk a b).slot1 = a)
    (hslot2 : ∀ a b, (mk a b).slot2 = b) : TwoSlotFaults (BadOperand c) (BadOperand d) mk := by
  refine ⟨fun s a b hab => faults_of_validate_error ?_, fun s a b k ha => faults_of_validate_error ?_,
    fun s a b k ha hb => faults_of_validate_error ?_⟩ <;> rw [validate_two s (hclasses _ _), hslot1, hslot2]
  · rcases hab with rfl | rfl
    · rfl
    · cases a <;> rfl
  · simp [resolveSlot_eq_error.mpr ha, Except.bind]
  · obtain ⟨o, ho⟩ := exists_resolveSlot_eq_ok ha s
    simp [ho, resolveSlot_eq_error.mpr hb, Except.bind, Except.map]

/-- A register written and the counter advanced: the register holds the value, and nothing else changes. -/
theorem writesRegister_setReg_advance (s : State) (r : Reg) (v : Word) :
    WritesRegister s (s.setReg r v).advance r v.toNat :=
  ⟨rfl, by simp, fun _ hq => RegFile.get_put_of_ne hq⟩

end Sys2Proof.Machine
end

section
/-! Settled here: assignment (40_assignment.md). -/

namespace Sys2Proof

open Sys2Proof.Machine Sys2Proof.Claims

/-- `set` of a register's own name and a value completes, with the value in that register (40_assignment.md R100). -/
theorem exec_set {s : State} {b : Token} {v : Word} (r : Reg) (hb : ValueIs s b v) :
    exec (.set (some (regName r)) (some b)) s = .next (s.setReg r v).advance := by
  have hops : operandsRV s (some (regName r)) (some b) = .ok (r, v) :=
    operandsRV_ok.mpr ⟨_, _, rfl, rfl, resolveReg_eq_ok.mpr rfl, resolveVal_of_valueIs hb⟩
  rw [exec, execSet, hops]
  rfl

/-- Settles O20: the effect writes one register, and the faults are those of an operation of classes R and V. -/
theorem setAssigns : Obligations.SetAssigns :=
  ⟨fun s r _ v hb => ⟨_, exec_set r hb, writesRegister_setReg_advance s r v⟩,
    twoSlotFaults (c := .R) (d := .V) (fun _ _ => rfl) (fun _ _ => rfl) (fun _ _ => rfl)⟩

end Sys2Proof
end

section
/-! The saturating ALU on unsigned values (00_scope.md R13, 41_arithmetic.md R115). -/

namespace Sys2Proof.Machine

@[simp] theorem toNat_clamp (n : Nat) : (clamp n).toNat = min n 65535 := by
  have hlt : min n 65535 < 2 ^ 16 := by omega
  rw [clamp, satMax, BitVec.toNat_ofNat, Nat.mod_eq_of_lt hlt]

/-- A value that fits a word is narrowed without loss. -/
theorem toNat_clamp_of_le {n : Nat} {v : Word} (h : n ≤ v.toNat) : (clamp n).toNat = n := by
  have hv : v.toNat < 65536 := v.isLt
  rw [toNat_clamp]
  omega

theorem toNat_satAdd (v w : Word) : (satAdd v w).toNat = min (v.toNat + w.toNat) 65535 :=
  toNat_clamp _

theorem toNat_satSub (v w : Word) :
    (satSub v w).toNat = if w.toNat ≤ v.toNat then v.toNat - w.toNat else 65535 := by
  unfold satSub
  split_ifs
  · exact toNat_clamp_of_le (Nat.sub_le v.toNat w.toNat)
  · exact toNat_clamp satMax

theorem toNat_satMul (v w : Word) : (satMul v w).toNat = min (v.toNat * w.toNat) 65535 :=
  toNat_clamp _

theorem toNat_satDiv (v w : Word) :
    (satDiv v w).toNat = if w.toNat = 0 then 65535 else v.toNat / w.toNat := by
  unfold satDiv
  split_ifs
  · exact toNat_clamp satMax
  · exact toNat_clamp_of_le (Nat.div_le_self v.toNat w.toNat)

end Sys2Proof.Machine
end

section
/-! Settled here: arithmetic (41_arithmetic.md). -/

namespace Sys2Proof

open Sys2Proof.Machine Sys2Proof.Claims

/-- Arithmetic on two values completes, with the result in `ret`; both are read before `ret` is written (41_arithmetic.md R110). -/
theorem arithmetic_of_values (f : Word → Word → Word) {s : State} {a b : Token} {v w : Word}
    (ha : ValueIs s a v) (hb : ValueIs s b w) :
    arithmetic f (some a) (some b) s = .next (s.setReg .ret (f v w)).advance := by
  have hops : operandsVV s (some a) (some b) = .ok (v, w) :=
    operandsVV_ok.mpr ⟨a, b, rfl, rfl, resolveVal_of_valueIs ha, resolveVal_of_valueIs hb⟩
  rw [arithmetic, hops, validated_ok]

/-- An operation executed as `arithmetic f` gives `result` wherever `f` computes `result` on unsigned values. -/
theorem arithmeticGives {mk : Option Token → Option Token → Instr} {f : Word → Word → Word}
    {result : Nat → Nat → Nat} (hexec : ∀ a b s, exec (mk a b) s = arithmetic f a b s)
    (hf : ∀ v w, (f v w).toNat = result v.toNat w.toNat) : ArithmeticGives mk result := by
  intro s a b v w ha hb
  refine ⟨_, (hexec _ _ s).trans (arithmetic_of_values f ha hb), ?_⟩
  rw [← hf]
  exact writesRegister_setReg_advance s .ret (f v w)

/-- Settles O21: the effect is the saturating sum in `ret`, and the faults are those of an operation of two values. -/
theorem addSaturates : Obligations.AddSaturates :=
  ⟨arithmeticGives (fun _ _ _ => rfl) toNat_satAdd,
    twoSlotFaults (c := .V) (d := .V) (fun _ _ => rfl) (fun _ _ => rfl) (fun _ _ => rfl)⟩

/-- Settles O22: as for the sum, with the difference that gives 65535 on underflow. -/
theorem subGives65535OnUnderflow : Obligations.SubGives65535OnUnderflow :=
  ⟨arithmeticGives (fun _ _ _ => rfl) toNat_satSub,
    twoSlotFaults (c := .V) (d := .V) (fun _ _ => rfl) (fun _ _ => rfl) (fun _ _ => rfl)⟩

/-- Settles O23: as for the sum, with the full product narrowed once. -/
theorem mulSaturates : Obligations.MulSaturates :=
  ⟨arithmeticGives (fun _ _ _ => rfl) toNat_satMul,
    twoSlotFaults (c := .V) (d := .V) (fun _ _ => rfl) (fun _ _ => rfl) (fun _ _ => rfl)⟩

/-- Settles O24: as for the sum, with the quotient rounded down, which gives 65535 for a divisor of 0. -/
theorem divRoundsDownAndSaturatesByZero : Obligations.DivRoundsDownAndSaturatesByZero :=
  ⟨arithmeticGives (fun _ _ _ => rfl) toNat_satDiv,
    twoSlotFaults (c := .V) (d := .V) (fun _ _ => rfl) (fun _ _ => rfl) (fun _ _ => rfl)⟩

end Sys2Proof
end

section
/-! The faults of every operation with one operand (30_encoding.md R80, R81). -/

namespace Sys2Proof.Machine

open Sys2Proof.Claims

/-- Every operation with one operand faults by its class: the arity first, then slot 1. -/
theorem oneSlotFaults {c : OperandClass} {mk : Option Token → Option Token → Instr}
    (hclasses : ∀ a b, (mk a b).classes = [c]) (hslot1 : ∀ a b, (mk a b).slot1 = a)
    (hslot2 : ∀ a b, (mk a b).slot2 = b) : OneSlotFaults (BadOperand c) mk := by
  refine ⟨fun s a b hab => faults_of_validate_error ?arity, fun s a k ha => faults_of_validate_error ?operand⟩ <;>
    rw [validate_one s (hclasses _ _), hslot1, hslot2]
  case arity =>
    rcases hab with rfl | hb
    · rfl
    · obtain ⟨u, rfl⟩ := Option.ne_none_iff_exists'.mp hb
      cases a <;> rfl
  case operand => exact except_map_eq_error.mpr (resolveSlot_eq_error.mpr ha)

end Sys2Proof.Machine
end

section
/-! Settled here: memory store and load (42_memory_ops.md). -/

namespace Sys2Proof

open Sys2Proof.Machine Sys2Proof.Claims

/-- `save` of a value completes, with a store to the cell at `ptr` (42_memory_ops.md R130). -/
theorem exec_save {s : State} {a : Token} {v : Word} (ha : ValueIs s a v) :
    exec (.save (some a) none) s = .next (s.memWrite s.x.ptr v).advance := by
  have ho : operandsV s (some a) none = .ok v := operandsV_ok.mpr ⟨a, rfl, rfl, resolveVal_of_valueIs ha⟩
  rw [exec, execSave, ho]
  rfl

/-- The cell a completed `save` stores to holds the value. -/
theorem memRead_memWrite_advance_self {s : State} (hs : Memory.wf s.mem = true) (ea v : Word) :
    (s.memWrite ea v).advance.memRead ea = v :=
  (State.memRead_memWrite hs ea v ea).trans (if_pos rfl)

/-- Every other cell holds what it held. -/
theorem memRead_memWrite_advance_of_ne {s : State} (hs : Memory.wf s.mem = true) {ea a : Word} (v : Word)
    (h : a ≠ ea) : (s.memWrite ea v).advance.memRead a = s.memRead a :=
  (State.memRead_memWrite hs ea v a).trans (if_neg h)

/-- Settles O43: a completed `save` stores one cell, and a raised fault changes the status alone. -/
theorem frameOfSave : Obligations.FrameOfSave := by
  unfold Obligations.FrameOfSave
  intro a b s t hs h
  rcases exec_completes_or_raises h with ⟨ops, hc⟩ | ⟨k, rfl⟩
  · cases hc with
    | save => exact ⟨rfl, rfl, fun _ => memRead_memWrite_advance_of_ne hs _, rfl, rfl, .inl rfl⟩
  · exact ⟨rfl, rfl, fun _ _ => rfl, rfl, rfl, .inr ⟨k, rfl⟩⟩

/-- Settles O46: `save` keeps `ptr`, so the `load` reads the cell just stored. -/
theorem saveThenLoadRoundTrip : Obligations.SaveThenLoadRoundTrip := by
  unfold Obligations.SaveThenLoadRoundTrip
  intro s a v r hs ha
  refine ⟨_, _, exec_save ha, exec_load _ r, ?_⟩
  calc ((s.memWrite s.x.ptr v).advance.x.put r ((s.memWrite s.x.ptr v).advance.memRead s.x.ptr)).get r
      = (s.memWrite s.x.ptr v).advance.memRead s.x.ptr := RegFile.get_put_self _ _ _
    _ = v := memRead_memWrite_advance_self hs _ _

/-- Settles O25: the store by the cell law of the memory, and the faults of an operation of one value. -/
theorem saveStoresAtPtr : Obligations.SaveStoresAtPtr :=
  ⟨fun _ _ _ hs ha => ⟨_, exec_save ha, rfl, memRead_memWrite_advance_self hs _ _,
      fun _ => memRead_memWrite_advance_of_ne hs _⟩,
    oneSlotFaults (c := .V) (fun _ _ => rfl) (fun _ _ => rfl) (fun _ _ => rfl)⟩

/-- Settles O26: `load` writes one register, with the cell at the old `ptr`, and the faults are those of an operation of one register. -/
theorem loadReadsAtPtr : Obligations.LoadReadsAtPtr :=
  ⟨fun s r => ⟨_, exec_load s r, writesRegister_setReg_advance s r _⟩,
    oneSlotFaults (c := .R) (fun _ _ => rfl) (fun _ _ => rfl) (fun _ _ => rfl)⟩

end Sys2Proof
end

section
/-! Settled here: increment and decrement (43_incdec.md). -/

namespace Sys2Proof

open Sys2Proof.Machine Sys2Proof.Claims

/-- A register's own name passes the validation of an operation with one operand of class R (30_encoding.md R82). -/
theorem validated_operandsR_regName (s : State) (r : Reg) (effect : Reg → State) :
    validated s (operandsR (some (regName r)) none) effect = .next (effect r) := by
  have ho : operandsR (some (regName r)) none = .ok r := operandsR_ok.mpr ⟨_, rfl, rfl, resolveReg_eq_ok.mpr rfl⟩
  rw [ho, validated_ok]

/-- An operation that replaces its register's value by `f` of it writes `result` there, wherever `f` computes `result` on unsigned values. -/
theorem writesRegister_of_update {mk : Option Token → Option Token → Instr} {f : Word → Word} {result : Nat → Nat}
    (hexec : ∀ a b s, exec (mk a b) s =
      validated s (operandsR a b) fun r => (s.setReg r (f (s.reg r))).advance)
    (hf : ∀ v, (f v).toNat = result v.toNat) (s : State) (r : Reg) :
    ∃ t, exec (mk (some (regName r)) none) s = .next t ∧ WritesRegister s t r (result (s.x.get r).toNat) := by
  refine ⟨_, (hexec _ _ s).trans (validated_operandsR_regName s r _), ?_⟩
  rw [← hf]
  exact writesRegister_setReg_advance s r (f (s.x.get r))

/-- Settles O27: the update is the saturating sum with 1, and the faults are those of an operation of one register. -/
theorem incSaturates : Obligations.IncSaturates :=
  ⟨writesRegister_of_update (result := fun n => min (n + 1) 65535) (fun _ _ _ => rfl) (toNat_satAdd · 1),
    oneSlotFaults (c := .R) (fun _ _ => rfl) (fun _ _ => rfl) (fun _ _ => rfl)⟩

/-- Settles O28: as for `inc`, with the difference that gives 65535 from 0. -/
theorem decGives65535OnUnderflow : Obligations.DecGives65535OnUnderflow :=
  ⟨writesRegister_of_update (result := fun n => if 1 ≤ n then n - 1 else 65535) (fun _ _ _ => rfl) (toNat_satSub · 1),
    oneSlotFaults (c := .R) (fun _ _ => rfl) (fun _ _ => rfl) (fun _ _ => rfl)⟩

end Sys2Proof
end

section
/-! The faults of every operation without operands (30_encoding.md R80), and what the control instructions leave unchanged (10_state.md R23). -/

namespace Sys2Proof.Machine

open Sys2Proof.Claims

/-- Every operation without operands faults on a slot that is present. -/
theorem noSlotFaults {mk : Option Token → Option Token → Instr} (hclasses : ∀ a b, (mk a b).classes = [])
    (hslot1 : ∀ a b, (mk a b).slot1 = a) (hslot2 : ∀ a b, (mk a b).slot2 = b) : NoSlotFaults mk := by
  intro s a b hab
  refine faults_of_validate_error ?_
  rw [validate_none s (hclasses a b), hslot1, hslot2]
  rcases hab with ha | hb
  · obtain ⟨t, rfl⟩ := Option.ne_none_iff_exists'.mp ha
    rfl
  · obtain ⟨t, rfl⟩ := Option.ne_none_iff_exists'.mp hb
    cases a <;> rfl

/-- A completed control instruction changes no register, cell, program or output. -/
theorem Completes.frame_of_control {s t : State} {i : Instr} {ops : List Operand} (hc : Completes s i ops t)
    (hi : IsControl i) : t.x = s.x ∧ t.mem = s.mem ∧ t.IM = s.IM ∧ t.out = s.out := by
  cases hc with
  | start | jmp | nop => exact ⟨rfl, rfl, rfl, rfl⟩
  | jmpif | skipins => simp
  | _ => exact hi.elim

theorem not_isComparison_of_control {i : Instr} (hi : IsControl i) : Instr.isComparison i ≠ true := by
  cases i with
  | smaller | greater | equ => exact hi.elim
  | _ => exact Bool.false_ne_true

end Sys2Proof.Machine
end

section
/-! Settled here: restart and the frame of the control instructions (44_restart.md, 46_jumps.md, 48_skip_nop.md). -/

namespace Sys2Proof

open Sys2Proof.Machine Sys2Proof.Claims

/-- Settles O41: a completed control instruction has the frame above, a raised fault changes the status alone, and an instruction that changes the flag is a comparison or a conditional that sees true. -/
theorem frameOfControl : Obligations.FrameOfControl := by
  unfold Obligations.FrameOfControl
  intro i s t hi h
  have frame : t.x = s.x ∧ t.mem = s.mem ∧ t.IM = s.IM ∧ t.out = s.out := by
    rcases exec_completes_or_raises h with ⟨ops, hc⟩ | ⟨k, rfl⟩
    · exact hc.frame_of_control hi
    · exact ⟨rfl, rfl, rfl, rfl⟩
  have flag : ¬ (IsConditional i ∧ s.F = true) → t.F = s.F := by
    intro hnot
    by_contra hF
    rcases exec_flag_changes h hF with hcmp | ⟨hcond, htrue, -⟩
    · exact not_isComparison_of_control hi hcmp
    · exact hnot ⟨hcond, htrue⟩
  obtain ⟨hx, hmem, hIM, hout⟩ := frame
  exact ⟨hx, flag, State.memRead_congr hmem, hIM, hout, exec_statusKeptOrFaulted h⟩

/-- Settles O29: without slots `start` passes validation and goes to 0, and its faults are those of an operation without operands. -/
theorem startKeepsAllButCounter : Obligations.StartKeepsAllButCounter :=
  ⟨fun _ => rfl, noSlotFaults (fun _ _ => rfl) (fun _ _ => rfl) (fun _ _ => rfl)⟩

end Sys2Proof
end

section
/-! What the output instructions leave unchanged (10_state.md R33), and the low bits of a word (45_output.md R164). -/

namespace Sys2Proof.Machine

open Sys2Proof.Claims

theorem toNat_lowByte (v : Word) : (lowByte v).toNat = v.toNat % 256 := by
  simp [lowByte]

/-- A completed output instruction changes no register, flag, cell or program, and appends one event. -/
theorem Completes.frame_of_output {s t : State} {i : Instr} {ops : List Operand} (hc : Completes s i ops t)
    (hi : IsOutput i) : t.x = s.x ∧ t.F = s.F ∧ t.mem = s.mem ∧ t.IM = s.IM ∧ ∃ e, t.out = s.out ++ [e] := by
  cases hc with
  | print | printa => exact ⟨rfl, rfl, rfl, rfl, _, rfl⟩
  | _ => exact hi.elim

end Sys2Proof.Machine
end

section
/-! The rendering of output events (45_output.md R162, R163): the digits the model writes are the library's `Nat.digits`, the most significant first. -/

namespace Sys2Proof.Machine

/-- A digit's character lies between `0` and `9`, at the digit's distance from `0`. -/
theorem digitChar_range {d : Nat} (h : d < 10) :
    ('0' ≤ digitChar d ∧ digitChar d ≤ '9') ∧ (digitChar d).toNat - 48 = d :=
  digitValue_eq_some.mp (digitValue_digitChar h)

theorem decimalFuel_eq_digits {fuel n : Nat} (hn : n ≠ 0) (hfuel : n < fuel) :
    decimalFuel fuel n = (Nat.digits 10 n).reverse.map digitChar := by
  induction fuel generalizing n with
  | zero => omega
  | succ fuel ih =>
    by_cases hlt : n < 10
    · simp [decimalFuel, hlt, Nat.digits_of_lt 10 n hn hlt]
    · have hdigits : Nat.digits 10 n = n % 10 :: Nat.digits 10 (n / 10) :=
        Nat.digits_def' (by omega) (by omega)
      have hquot : decimalFuel fuel (n / 10) = (Nat.digits 10 (n / 10)).reverse.map digitChar :=
        ih (by omega) (by omega)
      simp [decimalFuel, hlt, hdigits, hquot]

theorem decimal_eq_digits {n : Nat} (hn : n ≠ 0) : decimal n = (Nat.digits 10 n).reverse.map digitChar :=
  decimalFuel_eq_digits hn (Nat.lt_succ_self n)

theorem decimal_zero : decimal 0 = ['0'] := by decide

/-- The digits written for a value are a numeral of that value (30_encoding.md R83). -/
theorem numeralValue_decimal (n : Nat) : numeralValue (decimal n) = some n := by
  by_cases hn : n = 0
  · subst hn
    decide
  · have hrange : ∀ d ∈ Nat.digits 10 n,
        ('0' ≤ digitChar d ∧ digitChar d ≤ '9') ∧ (digitChar d).toNat - 48 = d :=
      fun d hd => digitChar_range (Nat.digits_lt_base (by omega) hd)
    have hvalues : (Nat.digits 10 n).map (fun d => (digitChar d).toNat - 48) = Nat.digits 10 n :=
      (List.map_congr_left fun d hd => (hrange d hd).2).trans (List.map_id' _)
    rw [decimal_eq_digits hn]
    refine (numeralTokens _ n).mpr ⟨by simp [Nat.digits_ne_nil_iff_ne_zero, hn], fun c hc => ?_, ?_⟩
    · obtain ⟨d, hd, rfl⟩ := List.mem_map.mp hc
      exact (hrange d (List.mem_reverse.mp hd)).1
    · simp [Function.comp_def, hvalues, Nat.ofDigits_digits]

/-- No leading zero: the first digit is the most significant one. -/
theorem head?_decimal_ne_zero {n : Nat} (hn : n ≠ 0) : (decimal n).head? ≠ some '0' := by
  have hne : Nat.digits 10 n ≠ [] := Nat.digits_ne_nil_iff_ne_zero.mpr hn
  have hlast : (Nat.digits 10 n).getLast hne ≠ 0 := Nat.getLast_digit_ne_zero 10 hn
  have hlt : (Nat.digits 10 n).getLast hne < 10 := Nat.digits_lt_base (by omega) (List.getLast_mem hne)
  rw [decimal_eq_digits hn, List.head?_map, List.head?_reverse, List.getLast?_eq_getLast_of_ne_nil hne]
  intro h
  have hchar : digitChar ((Nat.digits 10 n).getLast hne) = '0' := Option.some.inj h
  have hzero : ('0' : Char).toNat - 48 = (Nat.digits 10 n).getLast hne := hchar ▸ (digitChar_range hlt).2
  exact hlast hzero.symm

/-- Every character written for a value is ASCII, so its byte is its code. -/
theorem toNat_charByte_of_mem_decimal {n : Nat} {c : Char} (hc : c ∈ decimal n) :
    (charByte c).toNat = c.toNat := by
  obtain ⟨-, hdigits, -⟩ := (numeralTokens (decimal n) n).mp (numeralValue_decimal n)
  have hle : c.toNat ≤ 57 := (hdigits c hc).2
  rw [charByte, BitVec.toNat_ofNat, Nat.mod_eq_of_lt (by omega)]

theorem encodeChr_of_lt {c : Byte} (h : c.toNat < 128) : encodeChr c = [c] :=
  dif_pos h

theorem encodeChr_of_eq_add {c : Byte} {d : Fin 128} (h : c.toNat = 128 + d.val) :
    encodeChr c = Config.charEncoding d := by
  simp [encodeChr, h]

end Sys2Proof.Machine
end

section
/-! Settled here: output (45_output.md). -/

namespace Sys2Proof

open Sys2Proof.Machine Sys2Proof.Claims

/-- Settles O19: the digits of a value are the library's and read back as it, and a character code is below 128 or encoded. -/
theorem eventRendering : Obligations.EventRendering :=
  ⟨fun _ => rfl, fun n => ⟨numeralValue_decimal n, head?_decimal_ne_zero⟩, decimal_zero,
    fun _ _ => toNat_charByte_of_mem_decimal, fun _ hc => congrArg (· ++ [newline]) (encodeChr_of_lt hc),
    fun _ _ hc => congrArg (· ++ [newline]) (encodeChr_of_eq_add hc)⟩

/-- Settles O42: a completed output instruction appends one event, and a raised fault changes the status alone. -/
theorem frameOfOutput : Obligations.FrameOfOutput := by
  unfold Obligations.FrameOfOutput
  intro i s t hi h
  rcases exec_completes_or_raises h with ⟨ops, hc⟩ | ⟨k, rfl⟩
  · obtain ⟨hx, hF, hmem, hIM, e, hout⟩ := hc.frame_of_output hi
    exact ⟨hx, hF, State.memRead_congr hmem, hIM, ⟨[e], hout⟩, .inl hc.status_eq⟩
  · exact ⟨rfl, rfl, fun _ => rfl, rfl, ⟨[], (List.append_nil s.out).symm⟩, .inr ⟨k, rfl⟩⟩

/-- Settles O30: a register's own name passes validation, and the faults are those of an operation of one register. -/
theorem printEmitsValue : Obligations.PrintEmitsValue :=
  ⟨fun s r => validated_operandsR_regName s r _,
    oneSlotFaults (c := .R) (fun _ _ => rfl) (fun _ _ => rfl) (fun _ _ => rfl)⟩

/-- Settles O31: as for `print`, with the low byte of the register's value. -/
theorem printaEmitsLowByte : Obligations.PrintaEmitsLowByte :=
  ⟨fun s r => ⟨lowByte (s.x.get r), toNat_lowByte _, validated_operandsR_regName s r _⟩,
    oneSlotFaults (c := .R) (fun _ _ => rfl) (fun _ _ => rfl) (fun _ _ => rfl)⟩

end Sys2Proof
end

section
/-! Numerals as class-L operands (30_encoding.md R83, R85), and the two branches of a conditional (46_jumps.md R171, 48_skip_nop.md R190). -/

namespace Sys2Proof.Machine

theorem resolveLine_of_numeral {t : Token} {n : Nat} (h : numeralValue t = some (n + 1)) :
    resolveLine t = .ok (n + 1) := by
  simp [resolveLine, h]

/-- A numeral other than 0 passes the validation of an operation with one operand of class L. -/
theorem validated_operandsL_numeral {t : Token} {n : Nat} (h : numeralValue t = some (n + 1)) (s : State)
    (effect : Nat → State) : validated s (operandsL (some t) none) effect = .next (effect (n + 1)) := by
  have ho : operandsL (some t) none = .ok (n + 1) := operandsL_ok.mpr ⟨t, rfl, rfl, resolveLine_of_numeral h⟩
  rw [ho, validated_ok]

theorem State.consumeFlag_of_true {s : State} (hF : s.F = true) (target : Nat) :
    s.consumeFlag target = (s.setFlag false).goto target :=
  if_pos hF

theorem State.consumeFlag_of_false {s : State} (hF : s.F = false) (target : Nat) :
    s.consumeFlag target = s.advance :=
  if_neg (Bool.eq_false_iff.mp hF)

end Sys2Proof.Machine
end

section
/-! Settled here: jumps (46_jumps.md). -/

namespace Sys2Proof

open Sys2Proof.Machine Sys2Proof.Claims

/-- Settles O32: a line's numeral passes validation and the counter goes to the line's index, and the faults are those of an operation of one line. -/
theorem jmpGoesToLine : Obligations.JmpGoesToLine :=
  ⟨fun s _ _ ha => validated_operandsL_numeral ha s _,
    oneSlotFaults (c := .L) (fun _ _ => rfl) (fun _ _ => rfl) (fun _ _ => rfl)⟩

/-- Settles O33: as for `jmp`, with the two branches of the flag's test; the faults come before the test. -/
theorem jmpifConsumesFlag : Obligations.JmpifConsumesFlag := by
  unfold Obligations.JmpifConsumesFlag
  refine ⟨fun s a n ha hF => ?taken, fun s a n ha hF => ?untaken,
    oneSlotFaults (c := .L) (fun _ _ => rfl) (fun _ _ => rfl) (fun _ _ => rfl)⟩
  case taken =>
    calc exec (.jmpif (some a) none) s
      _ = .next (s.consumeFlag n) := validated_operandsL_numeral ha s _
      _ = .next ((s.setFlag false).goto n) := by rw [State.consumeFlag_of_true hF]
  case untaken =>
    calc exec (.jmpif (some a) none) s
      _ = .next (s.consumeFlag n) := validated_operandsL_numeral ha s _
      _ = .next s.advance := by rw [State.consumeFlag_of_false hF]

end Sys2Proof
end

section
/-! What a comparison leaves unchanged (47_compare.md R180). -/

namespace Sys2Proof.Machine

/-- A completed comparison changes no register, cell, program or output. -/
theorem Completes.frame_of_comparison {s t : State} {i : Instr} {ops : List Operand} (hc : Completes s i ops t)
    (hi : Instr.isComparison i = true) : t.x = s.x ∧ t.mem = s.mem ∧ t.IM = s.IM ∧ t.out = s.out := by
  cases hc with
  | smaller | greater | equ => exact ⟨rfl, rfl, rfl, rfl⟩
  | _ => exact absurd hi Bool.false_ne_true

end Sys2Proof.Machine
end

section
/-! Settled here: comparisons (47_compare.md). -/

namespace Sys2Proof

open Sys2Proof.Machine

/-- Settles O40: a completed comparison has the frame above, and a raised fault changes the status alone. -/
theorem frameOfComparisons : Obligations.FrameOfComparisons := by
  unfold Obligations.FrameOfComparisons
  intro i s t hi h
  have frame : t.x = s.x ∧ t.mem = s.mem ∧ t.IM = s.IM ∧ t.out = s.out := by
    rcases exec_completes_or_raises h with ⟨ops, hc⟩ | ⟨k, rfl⟩
    · exact hc.frame_of_comparison hi
    · exact ⟨rfl, rfl, rfl, rfl⟩
  obtain ⟨hx, hmem, hIM, hout⟩ := frame
  exact ⟨hx, State.memRead_congr hmem, hIM, hout, exec_statusKeptOrFaulted h⟩

/-- Settles O34: two values give the flag's result, and the faults are those of an operation of two values. -/
theorem smallerWritesFlag : Obligations.SmallerWritesFlag :=
  ⟨smaller_gives, twoSlotFaults (c := .V) (d := .V) (fun _ _ => rfl) (fun _ _ => rfl) (fun _ _ => rfl)⟩

/-- Settles O35: as for `smaller`, with the two values exchanged. -/
theorem greaterWritesFlag : Obligations.GreaterWritesFlag :=
  ⟨greater_gives, twoSlotFaults (c := .V) (d := .V) (fun _ _ => rfl) (fun _ _ => rfl) (fun _ _ => rfl)⟩

/-- Settles O36: as for `smaller`, with equality of the two values. -/
theorem equWritesFlag : Obligations.EquWritesFlag :=
  ⟨equ_gives, twoSlotFaults (c := .V) (d := .V) (fun _ _ => rfl) (fun _ _ => rfl) (fun _ _ => rfl)⟩

end Sys2Proof
end

section
/-! Settled here: conditional skip and no-op (48_skip_nop.md). -/

namespace Sys2Proof

open Sys2Proof.Machine

/-- Settles O37: without slots `skipins` passes validation and tests the flag; its faults are those of an operation without operands. -/
theorem skipinsConsumesFlag : Obligations.SkipinsConsumesFlag := by
  unfold Obligations.SkipinsConsumesFlag
  refine ⟨fun s hF => ?skips, fun s hF => ?advances,
    noSlotFaults (fun _ _ => rfl) (fun _ _ => rfl) (fun _ _ => rfl)⟩
  case skips =>
    calc exec (.skipins none none) s
      _ = .next (s.consumeFlag (s.pc + 2)) := rfl
      _ = .next ((s.setFlag false).goto (s.pc + 2)) := by rw [State.consumeFlag_of_true hF]
  case advances =>
    calc exec (.skipins none none) s
      _ = .next (s.consumeFlag (s.pc + 2)) := rfl
      _ = .next s.advance := by rw [State.consumeFlag_of_false hF]

/-- An empty first token, and the mnemonic itself, select the tag of `nop` (30_encoding.md R75, R77). -/
theorem tagOfToken_of_empty_or_nop {t : Token} (h : t = [] ∨ t = ['n', 'o', 'p']) : tagOfToken t = some 18 := by
  rcases h with rfl | rfl <;> decide

/-- Settles O38: the first token of a line of at most two spaces selects the tag of `nop`, and the slots are those of the other two. -/
theorem nopOnlyAdvances : Obligations.NopOnlyAdvances := by
  refine ⟨fun _ => rfl, noSlotFaults (fun _ _ => rfl) (fun _ _ => rfl) (fun _ _ => rfl), fun _ hfirst hcount => ?_⟩
  exact ⟨_, _, decodeLine_eq_ok.mpr ⟨hcount, tagOfToken_of_empty_or_nop hfirst, rfl, rfl⟩⟩

end Sys2Proof
end

section
/-! Settled here: what the host reads (60_exceptions.md R216 to R218). -/

namespace Sys2Proof

open Sys2Proof.Machine

/-- Every fault but the two with an OPEN status exits with 1 (60_exceptions.md R216). -/
theorem exitStatus_of_faulted {k : FaultKind} (hfetch : k ≠ .fetchOutOfRange) (hreg : k ≠ .unknownRegister)
    (line : Nat) : exitStatus (.faulted k line) = some 1 := by
  cases k with
  | fetchOutOfRange => exact absurd rfl hfetch
  | unknownRegister => exact absurd rfl hreg
  | malformedLine | unknownMnemonic | arityError | operandTypeError | operandRangeError | jumpOutOfRange => rfl

/-- Settles O59: the exit status by the kind of fault; the other clauses are the definitions' own cases. -/
theorem hostReadsStatusAndDump : Obligations.HostReadsStatusAndDump :=
  ⟨rfl, fun _ line hfetch hreg => exitStatus_of_faulted hfetch hreg line, fun _ => rfl, fun _ => rfl⟩

end Sys2Proof
end

section
/-! A step faults exactly when it is not valid (70_reset_and_hazards.md R237), in both directions; a run ends normally only at the end of the program. -/

namespace Sys2Proof.Machine

@[simp] theorem State.isFaulted_raise (s : State) (k : FaultKind) (line : Nat) : (s.raise k line).isFaulted = true := rfl

theorem State.isFaulted_of_running {s : State} (h : s.status = .running) : s.isFaulted = false := by
  simp [State.isFaulted, h]

/-- The step of a state that executes an instruction is that instruction's `exec`. -/
theorem step_of_executes {s : State} {i : Instr} (h : executes s = some i) : step s = exec i s := by
  unfold executes at h
  split at h
  case h_1 r hs hr =>
    cases hd : decodeRecord r with
    | ok j =>
      obtain rfl : j = i := by simpa [hd] using h
      simp [step, hs, hr, hd]
    | error e => simp [hd] at h
  case h_2 => simp at h

theorem executes_of_done {s : State} (h : s.status = .done) : executes s = none := by
  simp [executes, h]

/-- A valid step ends the run or completes an instruction. -/
theorem StepValid.step_not_faulted {s t : State} (hv : StepValid s) (h : step s = .next t) : t.isFaulted = false := by
  obtain ⟨hpc, hvalid⟩ := hv
  obtain ⟨hs, ⟨-, -, rfl⟩ | ⟨hlt, -, -⟩ | ⟨r, i, -, -, hi, he⟩⟩ := step_cases h
  · rfl
  · exact absurd hpc (Nat.not_le.mpr hlt)
  · obtain ⟨ops, hops⟩ := hvalid i hi
    obtain ⟨t', he', hc⟩ := exec_of_validate_ok hops
    obtain rfl : t' = t := Host.Outcome.next.inj (he'.symm.trans he)
    exact State.isFaulted_of_running (hc.status_eq.trans hs)

/-- A running state whose step raises no fault is valid; a reserved tag, which has no next state, is no fault. -/
theorem stepValid_of_running {s : State} (hs : s.status = .running)
    (h : ∀ t, step s = .next t → t.isFaulted = false) : StepValid s := by
  have not_raises (k : FaultKind) : step s ≠ .next (s.raise k s.line) := fun hstep => by
    simpa using h _ hstep
  refine ⟨Nat.not_lt.mp fun hlt => ?_, fun i hi => ?_⟩
  · exact not_raises _ (Sys2Proof.stepBeyondEndFaults s hs hlt)
  · cases hv : validate i s with
    | ok ops => exact ⟨ops, rfl⟩
    | error k => exact absurd ((step_of_executes hi).trans (exec_of_validate_error hv)) (not_raises k)

theorem stepValid_of_done {s : State} (hs : s.status = .done) (hagrees : s.statusAgrees) : StepValid s := by
  have hpc : s.pc = s.IM.length := by simpa [State.statusAgrees, hs] using hagrees
  exact ⟨hpc.le, by simp [executes_of_done hs]⟩

theorem RunFrom.statusAgrees {s t : State} (hrun : RunFrom s t) (hs : s.status = .running) : t.statusAgrees :=
  hrun.invariant (State.statusAgrees_of_running hs) fun h _ => step_statusAgrees h

end Sys2Proof.Machine
end

section
/-! Settled here: fault-free runs (70_reset_and_hazards.md R237). -/

namespace Sys2Proof

open Sys2Proof.Machine

/-- Settles O11: in a fault-free run a running state has no faulting step and a Done state is at the end of the program; and where every state is valid, the last step into a state raised no fault. -/
theorem faultFreeIffReachedLinesValid : Obligations.FaultFreeIffReachedLinesValid := by
  unfold Obligations.FaultFreeIffReachedLinesValid
  intro s hs
  constructor
  case mp =>
    intro hfree t hrun
    cases ht : t.status with
    | running => exact stepValid_of_running ht fun u hu => hfree u (.snoc hrun hu)
    | done => exact stepValid_of_done ht (hrun.statusAgrees hs)
    | faulted k line => simpa [State.isFaulted, ht] using hfree t hrun
  case mpr =>
    intro hvalid t hrun
    cases hrun with
    | start => exact State.isFaulted_of_running hs
    | snoc hprev hstep => exact (hvalid _ hprev).step_not_faulted hstep

end Sys2Proof
end
